-- ==== Sys2Proof/Word.lean ====
section
/-! DEFINITION. The word types of 00_scope.md R8: a byte and a sample are 8 unsigned bits. -/

namespace Sys2Proof

/-- A byte of `PROG`, `NAME` or the wire (R8). -/
abbrev Byte := BitVec 8

/-- A sample of `OUT`: one unsigned 8-bit value (R8). -/
abbrev Sample := BitVec 8

/-- A 16-bit register or index (R23, R24, R27). -/
abbrev Half := BitVec 16

end Sys2Proof
end

