-- ==== Sys2Proof/Syntax.lean ====
section
/-! DEFINITION. The instructions: one constructor per row of spec/opcode_table.json, and the words
that name them at the core's interfaces (30_encoding.md R94, R95, R100). -/

namespace Sys2Proof

/-- One constructor per row of the opcode table. -/
inductive Instr
  /-- `CELL_1` (R82). -/
  | cell1
  /-- `CELL_0` (R83). -/
  | cell0
  /-- `FRAME` of the byte `b` (R85). -/
  | frame (b : Byte)
  /-- `KEY_HEADER_MC` (R92). -/
  | keyHeaderMc
  /-- `KEY_DATA_MC` (R92). -/
  | keyDataMc
  /-- `KEY_HEADER_BASIC` (R92). -/
  | keyHeaderBasic
  /-- `KEY_DATA_BASIC` (R92). -/
  | keyDataBasic
  /-- `EMIT_BIT v` (R111). -/
  | emitBit (v : Bool)
  /-- `EMIT_BYTE b` (R112). -/
  | emitByte (b : Byte)
  /-- `EMIT_SILENCE ms` (R113). -/
  | emitSilence (ms : BitVec 32)
  /-- `MODCMD_RESERVED` (R96). -/
  | modcmdReserved
  /-- `START_MC` (R141): `CTRL[1:0] = 01`. -/
  | startMc
  /-- `START_BASIC` (R141): `CTRL[1:0] = 11`. -/
  | startBasic
  /-- `IDLE` (R26). -/
  | idle
  /-- `S1_SIL_IN` (R142). -/
  | s1SilIn
  /-- `S2_LDR_H` (R143). -/
  | s2LdrH
  /-- `S3_KEY_H` (R144). -/
  | s3KeyH
  /-- `S4_NAME` (R145). -/
  | s4Name
  /-- `S5_LEN` (R146). -/
  | s5Len
  /-- `S6_ADDR` (R147). -/
  | s6Addr
  /-- `S7_CKS_H` (R148). -/
  | s7CksH
  /-- `S8_DUM_H` (R149). -/
  | s8DumH
  /-- `S9_SIL_GAP` (R150). -/
  | s9SilGap
  /-- `S10_LDR_D` (R151). -/
  | s10LdrD
  /-- `S11_KEY_D` (R152). -/
  | s11KeyD
  /-- `S12_DATA` (R153). -/
  | s12Data
  /-- `S13_CKS_D` (R154). -/
  | s13CksD
  /-- `S14_DUM_D` (R155). -/
  | s14DumD
  /-- `S15_SIL_OUT` (R156). -/
  | s15SilOut
deriving DecidableEq, Repr

/-- A word as it stands at one of the six interfaces that R100 lists, in the table's bit numbers
(the rightmost character of a row's `encoding` is bit 0). -/
inductive PortWord
  /-- `CELL16`: one bit a sample, the first sample in bit 15. -/
  | cell (w : BitVec 16)
  /-- `FRAME11`: one bit a cell, the first cell in bit 10. -/
  | frame (w : BitVec 11)
  /-- `KEY8`: the byte value. -/
  | key (w : Byte)
  /-- `MODCMD34`: op in bits 33:32, arg in bits 31:0 (R94). -/
  | modcmd (w : BitVec 34)
  /-- `CTRL2`: `CTRL[1:0]`, MODE in bit 1 and START in bit 0 (R95). -/
  | ctrl (w : BitVec 2)
  /-- `STEP4`: the sequencer position `STEP` (R26). -/
  | step (w : BitVec 4)
deriving DecidableEq, Repr

/-- Why a word is no instruction. -/
inductive DecodeError
  /-- A `CELL16` pattern that is neither bit cell (R82, R83). -/
  | notACell
  /-- A `FRAME11` pattern without the start and stop bits of R85. -/
  | notAFrame
  /-- A byte that is none of the four key-codes of R92 (R96). -/
  | notAKeyCode
  /-- A `CTRL` value with START = 0: "A write with CTRL[0] = 0 gives no command" (R95). -/
  | noCommand
deriving DecidableEq, Repr

end Sys2Proof
end

