-- ==== Sys2Proof/Decode.lean ====
section
/-! DEFINITION. Decoding a word at an interface (30_encoding.md R82, R83, R85, R92, R94, R95, R96 and
the rows of spec/opcode_table.json), the encoder written from the same rows, and the host's view of a
table word. -/

namespace Sys2Proof

/-- The bits of a byte in the opposite order. -/
def reverseByte (b : Byte) : Byte :=
  b.extractLsb' 0 1 ++ b.extractLsb' 1 1 ++ b.extractLsb' 2 1 ++ b.extractLsb' 3 1 ++
  b.extractLsb' 4 1 ++ b.extractLsb' 5 1 ++ b.extractLsb' 6 1 ++ b.extractLsb' 7 1

/-- `FRAME11` of `b`: the row's `0abcdefgh11` with `a = b[0]` first on the wire, so in bit 9 (R85). -/
def frameWord (b : Byte) : BitVec 11 := 0#1 ++ reverseByte b ++ 3#2

def decodeCell (w : BitVec 16) : Except DecodeError Instr :=
  if w = 0b1111000011110000 then .ok .cell1
  else if w = 0b1111111100000000 then .ok .cell0
  else .error .notACell

def decodeFrame (w : BitVec 11) : Except DecodeError Instr :=
  if w.extractLsb' 10 1 = 0 ∧ w.extractLsb' 0 2 = 3 then
    .ok (.frame (reverseByte (w.extractLsb' 2 8)))
  else .error .notAFrame

def decodeKey (w : Byte) : Except DecodeError Instr :=
  if w = 0x26 then .ok .keyHeaderMc
  else if w = 0x27 then .ok .keyDataMc
  else if w = 0x16 then .ok .keyHeaderBasic
  else if w = 0x17 then .ok .keyDataBasic
  else .error .notAKeyCode

/-- `{op[1:0], arg[31:0]}` (R94); the ignored bits of `arg` are not read. -/
def decodeModcmd (w : BitVec 34) : Instr :=
  if w.extractLsb' 32 2 = 0 then .emitBit (w.getLsbD 0)
  else if w.extractLsb' 32 2 = 1 then .emitByte (w.extractLsb' 0 8)
  else if w.extractLsb' 32 2 = 2 then .emitSilence (w.extractLsb' 0 32)
  else .modcmdReserved

/-- `CTRL[1:0]` (R95). -/
def decodeCtrl (w : BitVec 2) : Except DecodeError Instr :=
  if w = 0b01 then .ok .startMc
  else if w = 0b11 then .ok .startBasic
  else .error .noCommand

/-- The step that `STEP` names (R26, R140). -/
def decodeStep (w : BitVec 4) : Instr :=
  match w.toNat with
  | 0 => .idle
  | 1 => .s1SilIn
  | 2 => .s2LdrH
  | 3 => .s3KeyH
  | 4 => .s4Name
  | 5 => .s5Len
  | 6 => .s6Addr
  | 7 => .s7CksH
  | 8 => .s8DumH
  | 9 => .s9SilGap
  | 10 => .s10LdrD
  | 11 => .s11KeyD
  | 12 => .s12Data
  | 13 => .s13CksD
  | 14 => .s14DumD
  | _ => .s15SilOut

/-- The instruction a word names at its interface, or the name of what is wrong with it. -/
def decode : PortWord → Except DecodeError Instr
  | .cell w => decodeCell w
  | .frame w => decodeFrame w
  | .key w => decodeKey w
  | .modcmd w => .ok (decodeModcmd w)
  | .ctrl w => decodeCtrl w
  | .step w => .ok (decodeStep w)

/-- The word of an instruction; ignored bits are sent as 0. -/
def encode : Instr → PortWord
  | .cell1 => .cell 0b1111000011110000
  | .cell0 => .cell 0b1111111100000000
  | .frame b => .frame (frameWord b)
  | .keyHeaderMc => .key 0x26
  | .keyDataMc => .key 0x27
  | .keyHeaderBasic => .key 0x16
  | .keyDataBasic => .key 0x17
  | .emitBit v => .modcmd (0#2 ++ 0#31 ++ BitVec.ofBool v)
  | .emitByte b => .modcmd (1#2 ++ 0#24 ++ b)
  | .emitSilence ms => .modcmd (2#2 ++ ms)
  | .modcmdReserved => .modcmd (3#2 ++ 0#32)
  | .startMc => .ctrl 0b01
  | .startBasic => .ctrl 0b11
  | .idle => .step 0
  | .s1SilIn => .step 1
  | .s2LdrH => .step 2
  | .s3KeyH => .step 3
  | .s4Name => .step 4
  | .s5Len => .step 5
  | .s6Addr => .step 6
  | .s7CksH => .step 7
  | .s8DumH => .step 8
  | .s9SilGap => .step 9
  | .s10LdrD => .step 10
  | .s11KeyD => .step 11
  | .s12Data => .step 12
  | .s13CksD => .step 13
  | .s14DumD => .step 14
  | .s15SilOut => .step 15

/-- Which interface a table word of `nbits` bits stands at. DESIGN CHOICE (log entry 2): the table's
formats share lengths in whole bytes, so a byte is a key-code where it is one and a `STEP` value
otherwise, and 16 bits are a bit cell where they are one and a frame otherwise; `CTRL2` is met under its own
length 2. -/
def tableWord (nbits w : Nat) : Option PortWord :=
  if nbits = 2 then (if w < 4 then some (.ctrl (BitVec.ofNat 2 w)) else none)
  else if nbits = 4 then (if w < 16 then some (.step (BitVec.ofNat 4 w)) else none)
  else if nbits = 8 then
    (if w < 16 then some (.step (BitVec.ofNat 4 w))
     else if w < 256 then some (.key (BitVec.ofNat 8 w)) else none)
  else if nbits = 11 then (if w < 2048 then some (.frame (BitVec.ofNat 11 w)) else none)
  else if nbits = 16 then
    (if w < 2048 then some (.frame (BitVec.ofNat 11 w))
     else if w < 65536 then some (.cell (BitVec.ofNat 16 w)) else none)
  else if nbits = 34 ∨ nbits = 40 then
    (if w < 17179869184 then some (.modcmd (BitVec.ofNat 34 w)) else none)
  else none

/-- The instruction the decoder reads from a word of the opcode table. -/
def decodeTableWord (nbits w : Nat) : Option Instr :=
  match tableWord nbits w with
  | some p => (decode p).toOption
  | none => none

end Sys2Proof
end

