-- ==== Sys2Proof/Config.lean ====
section
/-! DEFINITION. The constants of 00_scope.md R6 and the values R7 decides. The spec leaves no result
undefined, so there is no free value here; the two open parameters of R7 are `NAME_LEN_W` (a natural
number, log entry 9) and `SINK_MAY_FAIL` (a field of State, log entry 5). -/

namespace Sys2Proof.Config

/-- `SAMPLE_RATE` (R6): playback rate, samples per second. -/
abbrev sampleRate : Nat := 19200
/-- `SAMPLES_PER_BIT` (R6). -/
abbrev samplesPerBit : Nat := 16
/-- `FRAME_BITS` (R6). -/
abbrev frameBits : Nat := 11
/-- `SAMPLES_PER_BYTE` (R6). -/
abbrev samplesPerByte : Nat := 176
/-- `HIGH` (R6, R81). -/
abbrev high : Sample := 0xFF
/-- `LOW` (R6, R81). -/
abbrev low : Sample := 0x00
/-- `MID` (R6, R81). -/
abbrev mid : Sample := 0x80
/-- `SIL_NUM` (R6). -/
abbrev silNum : Nat := 192
/-- `SIL_DEN` (R6). -/
abbrev silDen : Nat := 10
/-- `SILENCE_PRODUCT_LIMIT` (R7). -/
abbrev silenceProductLimit : Nat := 4294967296
/-- `LEADER_BITS` (R6). -/
abbrev leaderBits : Nat := 3600
/-- `LEAD_IN_MS` (R6). -/
abbrev leadInMs : BitVec 32 := 10
/-- `GAP_MS` (R6). -/
abbrev gapMs : BitVec 32 := 1000
/-- `LEAD_OUT_MS` (R6). -/
abbrev leadOutMs : BitVec 32 := 10
/-- `KEY_HDR_MC` (R6). -/
abbrev keyHdrMc : Byte := 0x26
/-- `KEY_HDR_BASIC` (R6): documented, never sent by a run. -/
abbrev keyHdrBasic : Byte := 0x16
/-- `KEY_DAT_MC` (R6). -/
abbrev keyDatMc : Byte := 0x27
/-- `KEY_DAT_BASIC` (R6): documented, never sent by a run. -/
abbrev keyDatBasic : Byte := 0x17
/-- `NAME_FIELD_LEN` (R6). -/
abbrev nameFieldLen : Nat := 16
/-- `NAME_PAD` (R6). -/
abbrev namePad : Byte := 0x20
/-- `DUMMY` (R6). -/
abbrev dummy : Byte := 0x00
/-- `DUMMY_COUNT` (R6). -/
abbrev dummyCount : Nat := 2
/-- `MAX_PROG_LEN` (R6). -/
abbrev maxProgLen : Nat := 65535
/-- `MAX_START_ADDR` (R6). -/
abbrev maxStartAddr : Nat := 0xFFFF

/-- `FCODE` 0: none (R7, R29). -/
abbrev fcodeNone : BitVec 2 := 0
/-- `FCODE` 1: UnsupportedMode (R7, R201). -/
abbrev fcodeUnsupportedMode : BitVec 2 := 1
/-- `FCODE` 2: OutputUnwritable (R7, R201). -/
abbrev fcodeOutputUnwritable : BitVec 2 := 2

end Sys2Proof.Config
end

