-- ==== Sys2Proof/Machine/State.lean ====
section
/-! DEFINITION. The state of the core (10_state.md R20), the host's two memories (R33, 20_memory.md
R50), the inputs still to come, the reasons a step can stop, and the state after reset (R35). -/

namespace Sys2Proof.Machine

/-- `MODE` (R22): 0 = MachineCode, 1 = Basic. -/
inductive TapeMode
  | machineCode
  | basic
deriving DecidableEq, Repr

/-- A host memory: (index, byte) pairs, indices strictly rising. An index that is not listed has no
value. -/
abbrev Memory := List Host.Cell

/-- One modulator primitive with its operand (R110). -/
inductive Prim
  | bit (v : Bool)
  | byte (b : Byte)
  | silence (ms : BitVec 32)
deriving DecidableEq, Repr

/-- The registers of the per-sample refinement (R31). -/
structure Ticks where
  /-- `SAMPOS`: sample number inside a bit cell. -/
  sampos : BitVec 4
  /-- `BITPOS`: bit number inside a frame. -/
  bitpos : BitVec 4
  /-- `SHREG`: the byte being framed. -/
  shreg : Byte
  /-- `SILCNT`: silence samples still to emit. -/
  silcnt : BitVec 32
deriving DecidableEq, Repr

/-- No primitive in progress (R31: "they are 0 whenever no primitive is in progress"). -/
def Ticks.zero : Ticks := ⟨0, 0, 0, 0⟩

/-- What the sink's wire does at an instant (R204). -/
inductive SinkEvent
  /-- nothing new -/
  | keep
  /-- the sink is sound from here on: it never fails -/
  | sound
  /-- the sink takes `n` more samples and then asserts `sink_error` -/
  | failsAfter (n : Nat)
deriving DecidableEq, Repr

/-- A port the host can only read (R30). -/
inductive ReadOnlyPort
  | status
  | cksum
  | upc
deriving DecidableEq, Repr

/-- What the host does at the ports in one instant: the writes of R30, the placing of its two memories
(R232; `truncateProg n` takes the bytes of an older image away from index `n` on), and the command words and wire patterns of R94 and R100 given to the modulator on its own
(95_test_vectors.md part 3, P1 and P2). -/
inductive HostAct
  | writeCtrl (v : BitVec 32)
  | writeStartAddr (v : Half)
  | writeProgLen (v : Half)
  | writeNameLen (n : Nat)
  | writeReadOnly (p : ReadOnlyPort) (v : BitVec 32)
  | placeProg (i : Half) (b : Byte)
  | placeName (i : Nat) (b : Byte)
  | truncateProg (n : Nat)
  | modcmd (w : BitVec 34)
  | cell (w : BitVec 16)
  | frame (w : BitVec 11)
  | key (w : Byte)
deriving DecidableEq, Repr

/-- One instant at the core's boundary: the reset wire, the sink's wire, at most one act of the host,
and whether a running core makes its next model step in the same instant (R206 ranks them). -/
structure Moment where
  reset : Bool
  sink : SinkEvent
  act : Option HostAct
  advance : Bool
deriving DecidableEq, Repr

/-- The state: the tuple of R20, then what the host and the environment own. -/
structure State where
  /-- `CKSUM` (R21) -/
  cksum : Byte
  /-- `MODE` (R22) -/
  mode : TapeMode
  /-- `START_ADDR` (R23) -/
  startAddr : Half
  /-- `PROG_LEN` (R24) -/
  progLen : Half
  /-- `NAME_LEN` (R25) -/
  nameLen : Nat
  /-- `STEP` (R26) -/
  stepNo : BitVec 4
  /-- `IDX` (R27) -/
  idx : Half
  /-- `BUSY` (R29) -/
  busy : Bool
  /-- `DONE` (R29) -/
  done : Bool
  /-- `FAULT` (R29) -/
  fault : Bool
  /-- `FCODE` (R29) -/
  fcode : BitVec 2
  /-- `OUT` (R32), oldest sample first -/
  out : List Sample
  /-- `SAMPOS`, `BITPOS`, `SHREG`, `SILCNT` (R31) -/
  ticks : Ticks
  /-- `PROG` (R51), the host's -/
  prog : Memory
  /-- `NAME` (R52), the host's -/
  name : Memory
  /-- samples the sink still takes before `sink_error`; `none`: it never fails (R204, R7) -/
  sinkRoom : Option Nat
  /-- the instants still to come, oldest first -/
  inbox : List Moment
deriving DecidableEq, Repr

/-- Why the machine stops without an outcome. The core's own two faults (R200) are no stop: they are
taken, as next states with FAULT = 1. -/
inductive Fault
  /-- Raised by the fetch in a state whose `STEP` and `BUSY` contradict each other, which R96 calls
  unreachable and without semantics (U14 lets a model leave it stuck). Safe. -/
  | inconsistentPosition
deriving DecidableEq, Repr

/-- Why an instruction or an act of the host has no meaning. All are safe: the model stops where the spec
gives no meaning. -/
inductive Refusal
  /-- Raised by an arm of `exec` whose instruction has no meaning yet. No arm raises it. -/
  | notModelled (mnemonic : String)
  /-- Raised by `MODCMD_RESERVED`: "refuse" (R96). -/
  | reservedCommand
  /-- Raised by `EMIT_SILENCE ms` with `ms * 192 >= 2^32`: "beyond that it is refused" (R113). -/
  | silenceTooLong
  /-- Raised by step 12 at an index that `PROG_LEN` does not declare (R51, R64). -/
  | progIndexUndeclared
  /-- Raised by step 12 at a declared index the host does not back (R64, R216). -/
  | progIndexUnbacked
  /-- Raised by step 4 at an index past the 16 the core may read (R52). -/
  | nameIndexUndeclared
  /-- Raised by step 4 at a declared index the host does not back (R64, R216). -/
  | nameIndexUnbacked
  /-- Raised by `START_MC`, where it would begin a run, when the host's contract is broken: `PROG_LEN` is not the
  true length of the image, or a declared byte is not there (R216: "a model refuses it"). -/
  | contractBroken
  /-- Raised when a word is given to the modulator that is not free: "never by the host directly" (R110; log
  entry 15). -/
  | hostDrivesModulator
  /-- Raised when the host changes a used byte of `PROG` or `NAME` during a run (R63, R216). -/
  | inputChangedDuringRun
  /-- Raised when a word given to the modulator is no instruction (R96). -/
  | undecodable (e : DecodeError)
deriving DecidableEq, Repr

/-- The outcome of a step of this machine. -/
abbrev Outcome := Host.Outcome State Fault Refusal

/-- The machine right after reset: every item of R35 at its value there, the host's memories with
nothing listed, a sink that never fails, and no input waiting. -/
def State.reset : State where
  cksum := 0
  mode := .machineCode
  startAddr := 0
  progLen := 0
  nameLen := 0
  stepNo := 0
  idx := 0
  busy := false
  done := false
  fault := false
  fcode := Config.fcodeNone
  out := []
  ticks := Ticks.zero
  prog := []
  name := []
  sinkRoom := none
  inbox := []

end Sys2Proof.Machine
end

