-- ==== Sys2Proof/Machine/Operands.lean ====
section
/-! DEFINITION. Operand forms and the arithmetic of 40_modulator.md R114: byte fields, the 8-bit
negation, the bit cells, the frame, the silence count, and the samples of a primitive. -/

namespace Sys2Proof.Machine

/-- `neg8(v) = (256 - v) mod 256` (R8). -/
def neg8 (v : Byte) : Byte := BitVec.ofNat 8 (256 - v.toNat)

/-- `v[15:8]` (R8). -/
def highByte (v : Half) : Byte := v.extractLsb' 8 8

/-- `v[7:0]` (R8). -/
def lowByte (v : Half) : Byte := v.extractLsb' 0 8

/-- A 16-bit field goes out most significant byte first (R54(b)): byte `i` of it. -/
def fieldByte (v : Half) (i : Half) : Byte := if i = 0 then highByte v else lowByte v

/-- The 16 samples of a bit cell (R82, R83, R111). -/
def cell (v : Bool) : List Sample :=
  if v then
    [Config.high, Config.high, Config.high, Config.high, Config.low, Config.low, Config.low, Config.low,
     Config.high, Config.high, Config.high, Config.high, Config.low, Config.low, Config.low, Config.low]
  else
    [Config.high, Config.high, Config.high, Config.high, Config.high, Config.high, Config.high, Config.high,
     Config.low, Config.low, Config.low, Config.low, Config.low, Config.low, Config.low, Config.low]

/-- The 11 bits of a frame in transmit order: start 0, `b[0]` to `b[7]`, stop 1 1 (R85, R112). -/
def frameBits (b : Byte) : List Bool :=
  [false, b.getLsbD 0, b.getLsbD 1, b.getLsbD 2, b.getLsbD 3, b.getLsbD 4, b.getLsbD 5,
   b.getLsbD 6, b.getLsbD 7, true, true]

/-- The 176 samples of a frame (R85, R112). -/
def frame (b : Byte) : List Sample := (frameBits b).flatMap cell

/-- `ms * 192 / 10`, the product first, the quotient truncated (R86, R113). -/
def silenceCount (ms : BitVec 32) : Nat := ms.toNat * Config.silNum / Config.silDen

/-- `EMIT_SILENCE ms` has a meaning: `ms * 192 < 2^32` (R113). -/
def silenceAdmitted (ms : BitVec 32) : Bool := ms.toNat * Config.silNum < Config.silenceProductLimit

/-- The samples a primitive appends (R111, R112, R113). They depend on its operand alone (R118). -/
def Prim.samples : Prim → List Sample
  | .bit v => cell v
  | .byte b => frame b
  | .silence ms => List.replicate (silenceCount ms) Config.mid

/-- Whether the spec gives the primitive a meaning (R113). -/
def Prim.admitted : Prim → Bool
  | .bit _ => true
  | .byte _ => true
  | .silence ms => silenceAdmitted ms

/-- The refinement registers when a primitive has emitted `k` of its samples and is stopped before the
next (R115, R116, R117; DEDUCED, log entry 4). -/
def Prim.frozen (p : Prim) (k : Nat) : Ticks :=
  match p with
  | .bit _ => ⟨BitVec.ofNat 4 k, 0, 0, 0⟩
  | .byte b => ⟨BitVec.ofNat 4 k, BitVec.ofNat 4 (k / Config.samplesPerBit), b, 0⟩
  | .silence ms => ⟨0, 0, 0, BitVec.ofNat 32 (silenceCount ms - k)⟩

/-- The index of the last bit of a leader (R143, R151). -/
def leaderLast : Half := BitVec.ofNat 16 (Config.leaderBits - 1)

/-- The index of the last byte of the name field (R145). -/
def nameLast : Half := BitVec.ofNat 16 (Config.nameFieldLen - 1)

/-- The key-code of a header record (R144). -/
def headerKey : TapeMode → Byte
  | .machineCode => Config.keyHdrMc
  | .basic => Config.keyHdrBasic

/-- The key-code of a data record (R152). -/
def dataKey : TapeMode → Byte
  | .machineCode => Config.keyDatMc
  | .basic => Config.keyDatBasic

end Sys2Proof.Machine
end

