-- ==== Sys2Proof/Machine/Flags.lean ====
section
/-! DEFINITION. The status items BUSY, DONE, FAULT, FCODE and their only changes (10_state.md R29). The
core keeps no arithmetic flag: the carry out of `CKSUM +8 b` is discarded. -/

namespace Sys2Proof.Machine.State

/-- START is accepted only when BUSY = 0 and FAULT = 0 (R29, R141). -/
def acceptsStart (s : State) : Bool := !s.busy && !s.fault

/-- An accepted START: DONE <- 0, BUSY <- 1 (R141). -/
def flagsStarted (s : State) : State := { s with done := false, busy := true }

/-- The end of step 15: BUSY <- 0, DONE <- 1 (R156). -/
def flagsFinished (s : State) : State := { s with busy := false, done := true }

/-- `CKSUM <- CKSUM +8 b`, the carry discarded (R112, R114). -/
def addCksum (b : Byte) (s : State) : State := { s with cksum := s.cksum + b }

/-- `CKSUM <- 0` after a key-code (R144, R152). -/
def clearCksum (s : State) : State := { s with cksum := 0 }

/-- `done_event`, equal to DONE (R205). -/
def doneEvent (s : State) : Bool := s.done

/-- `fault_event`, equal to FAULT (R205). -/
def faultEvent (s : State) : Bool := s.fault

end Sys2Proof.Machine.State
end

