-- ==== Sys2Proof/Machine/Ops.lean ====
section
/-! DEFINITION. The named operations over memory, the sequencer position and the output stream, taking a
fault, and the only way out of one. -/

namespace Sys2Proof.Machine

/-- What an index that is not listed reads as: nothing (R35: "unspecified"; log entry 6). -/
def Memory.unlisted : Option Byte := none

/-- `MemRead` of one byte (R9, R55). -/
def Memory.read : Memory → Nat → Option Byte
  | [], _ => Memory.unlisted
  | (i, b) :: rest, a => if a = i then some b else Memory.read rest a

/-- The host places one byte; the list stays in rising order. -/
def Memory.write : Memory → Nat → Byte → Memory
  | [], a, v => [(a, v)]
  | (i, b) :: rest, a, v =>
    if a < i then (a, v) :: (i, b) :: rest
    else if a = i then (i, v) :: rest
    else (i, b) :: Memory.write rest a v

/-- The canonical form: indices strictly rising. A listed byte never equals what an unlisted index
reads as, since that is no byte. -/
abbrev Memory.wf (m : Memory) : Prop := (m.map Prod.fst).Pairwise (· < ·)

/-- The host takes the bytes at index `n` and above away. -/
def Memory.truncate (m : Memory) (n : Nat) : Memory := m.filter fun c => decide (c.1 < n)

namespace State

/-- `upc <- (k, 0)` (R9, R28). -/
def goto (k : BitVec 4) (s : State) : State := { s with stepNo := k, idx := 0 }

/-- `IDX <- IDX + 1` (R28). -/
def nextIdx (s : State) : State := { s with idx := s.idx + 1 }

/-- `IDX <- 1`, in the steps that issue two primitives (R146, R147, R149, R155). -/
def idxOne (s : State) : State := { s with idx := 1 }

/-- Taking a fault (R207), exactly this: FAULT <- 1, FCODE <- code, BUSY <- 0. No register is saved, there is
no handler and no vector, and the position, CKSUM and OUT stay. -/
def raise (code : BitVec 2) (s : State) : State :=
  { s with fault := true, fcode := code, busy := false }

/-- Reset (R35, R230), the only way out of a fault (R208: "There is no return"). What the host and
the environment own stays: PROG and NAME are not core state (R33; DEDUCED, log entry 10). -/
def resetCore (s : State) : State :=
  { State.reset with prog := s.prog, name := s.name, sinkRoom := s.sinkRoom, inbox := s.inbox }

/-- The sample before which `sink_error` stops an emission of `n` samples: only while BUSY = 1 (R204). -/
def sinkStopsAt (n : Nat) (s : State) : Option Nat :=
  if s.busy then
    match s.sinkRoom with
    | some k => if k < n then some k else none
    | none => none
  else none

end State

/-- How an emission ends: all samples are out, or the sink failed and the fault is taken. -/
inductive Emission
  | finished (s : State)
  | failed (s : State)

/-- `EmitAll(xs)` (R9) with the sink's failure of R204: the samples before the failing one are in OUT
and none after, and OutputUnwritable is raised. `frozen k` is what the refinement registers hold when
`k` samples are out. -/
def emitAll (xs : List Sample) (frozen : Nat → Ticks) (s : State) : Emission :=
  match s.sinkStopsAt xs.length with
  | some k => .failed (State.raise Config.fcodeOutputUnwritable
      { s with out := s.out ++ xs.take k, ticks := frozen k, sinkRoom := some 0 })
  | none => .finished
      { s with out := s.out ++ xs, sinkRoom := s.sinkRoom.map (fun k => k - xs.length) }

/-- What a primitive writes beside its samples: `EMIT_BYTE` adds its byte to CKSUM once the samples are
out (R112); the others write no register (R111, R113). -/
def Prim.commit : Prim → State → State
  | .bit _, s => s
  | .byte b, s => s.addCksum b
  | .silence _, s => s

/-- Samples alone, with no write of a register: the wire patterns of 30_encoding.md. -/
def emitOnly (p : Prim) (s : State) : Outcome :=
  match emitAll p.samples p.frozen s with
  | .finished t => .next t
  | .failed t => .next t

/-- One primitive to its end, then `after` (R140). If the sink fails, the position and CKSUM keep their
values (R204), so `after` does not happen. -/
def issue (p : Prim) (after : State → State) (s : State) : Outcome :=
  if p.admitted then
    match emitAll p.samples p.frozen s with
    | .finished t => .next (after (p.commit t))
    | .failed t => .next t
  else .refused .silenceTooLong

/-- A step of the engine: its primitive with the operand read from `s`, then its register writes. -/
def issueStep (prim : State → Except Refusal Prim) (after : State → State) (s : State) : Outcome :=
  match prim s with
  | .ok p => issue p after s
  | .error r => .refused r

/-- The operand of step 4 (R145): `MemRead(NAME, IDX, 1)` when `IDX < NAME_LEN`, else the pad. The port's
index has 4 bits (R52), so an index past 15 is refused (log entry 24). -/
def nameByte (s : State) : Except Refusal Byte :=
  if s.idx.toNat < s.nameLen then
    if s.idx.toNat < Config.nameFieldLen then
      match Memory.read s.name s.idx.toNat with
      | some b => .ok b
      | none => .error .nameIndexUnbacked
    else .error .nameIndexUndeclared
  else .ok Config.namePad

/-- The operand of step 12 (R153): `MemRead(PROG, IDX, 1)`, defined for `IDX < PROG_LEN` (R9, R51). -/
def progByte (s : State) : Except Refusal Byte :=
  if s.idx.toNat < s.progLen.toNat then
    match Memory.read s.prog s.idx.toNat with
    | some b => .ok b
    | none => .error .progIndexUnbacked
  else .error .progIndexUndeclared

/-- The MODE bit of a CTRL write, taken only while BUSY = 0 (R30). -/
def writeMode (m : TapeMode) (s : State) : State := if s.busy then s else { s with mode := m }

/-- The host's contract for the run that START begins (R216): the image, which is what PROG lists, has exactly
PROG_LEN bytes (R64, R232, D25; log entry 8), and the name is backed below `min(NAME_LEN, 16)` (R64). -/
abbrev Contract (s : State) : Prop :=
  s.prog.map Prod.fst = List.range s.progLen.toNat ∧
  ∀ i, i < min s.nameLen Config.nameFieldLen → (Memory.read s.name i).isSome

/-- The START command (R141), with MODE as it stands. -/
def startCommand (s : State) : State :=
  if s.acceptsStart then
    match s.mode with
    | .machineCode => State.goto 1 (State.flagsStarted { s with out := [] })
    | .basic => State.raise Config.fcodeUnsupportedMode { s with done := false, out := [] }
  else s

/-- START as the model runs it. The core checks no contract and raises no fault for one; a run whose contract is
broken has no meaning, so the model refuses it at the START that would begin it (R10, R216: "a model refuses it";
log entry 8). -/
def startRun (s : State) : Outcome :=
  if s.acceptsStart ∧ s.mode = .machineCode ∧ ¬ Contract s then .refused .contractBroken
  else .next (startCommand s)

end Sys2Proof.Machine
end

