-- ==== Sys2Proof/Machine/Command.lean ====
section
/-! DEFINITION. The host's one command (41_framing_engine.md R141) and the idle position (R26). -/

namespace Sys2Proof.Machine

/-- `START_MC`, a write of `CTRL[1:0] = 01`: MODE first, then the command with the new MODE (R141). -/
def execStartMc (s : State) : Outcome := startRun (writeMode .machineCode s)

/-- `START_BASIC`, a write of `CTRL[1:0] = 11`: raises UnsupportedMode where it is accepted (R141, R202). -/
def execStartBasic (s : State) : Outcome := startRun (writeMode .basic s)

/-- `IDLE` (R26): "no run is in progress"; the core waits for START and nothing changes (R215, R230). -/
def execIdle (s : State) : Outcome := .next s

end Sys2Proof.Machine
end

