-- ==== Sys2Proof/Machine/Modulator.lean ====
section
/-! DEFINITION. The modulator's commands (40_modulator.md R111 to R113) and the reserved one (R96). -/

namespace Sys2Proof.Machine

/-- `EMIT_BIT v` (R111). -/
def execEmitBit (v : Bool) (s : State) : Outcome := issue (.bit v) id s

/-- `EMIT_BYTE b` (R112). -/
def execEmitByte (b : Byte) (s : State) : Outcome := issue (.byte b) id s

/-- `EMIT_SILENCE ms` (R113), refused when `ms * 192 >= 2^32`. -/
def execEmitSilence (ms : BitVec 32) (s : State) : Outcome := issue (.silence ms) id s

/-- `MODCMD_RESERVED` (R96): "refuse". -/
def execModcmdReserved (_s : State) : Outcome := .refused .reservedCommand

end Sys2Proof.Machine
end

