-- ==== Sys2Proof/Machine/Sequencer.lean ====
section
/-! DEFINITION. The fifteen steps of the framing engine (41_framing_engine.md R142 to R156). Each has
its primitive, with the operand read before it starts (R112, R148), and its register writes after it;
the position follows R158. -/

namespace Sys2Proof.Machine

/-- Step 1 (R142): `EMIT_SILENCE 10`. -/
def s1Prim (_s : State) : Except Refusal Prim := .ok (.silence Config.leadInMs)
def s1After (s : State) : State := State.goto 2 s

/-- Step 2 (R143): `EMIT_BIT 1`, 3600 times. -/
def s2Prim (_s : State) : Except Refusal Prim := .ok (.bit true)
def s2After (s : State) : State := if s.idx = leaderLast then State.goto 3 s else s.nextIdx

/-- Step 3 (R144): the header key-code, then `CKSUM <- 0`. -/
def s3Prim (s : State) : Except Refusal Prim := .ok (.byte (headerKey s.mode))
def s3After (s : State) : State := State.goto 4 s.clearCksum

/-- Step 4 (R145): the name field. -/
def s4Prim (s : State) : Except Refusal Prim := (nameByte s).map Prim.byte
def s4After (s : State) : State := if s.idx = nameLast then State.goto 5 s else s.nextIdx

/-- The step after the length field: the start address is "Omitted entirely for Basic mode" (R28). -/
def afterLength : TapeMode → BitVec 4
  | .machineCode => 6
  | .basic => 7

/-- Step 5 (R146): the length, high byte first; step 6 is left out for Basic. -/
def s5Prim (s : State) : Except Refusal Prim := .ok (.byte (fieldByte s.progLen s.idx))
def s5After (s : State) : State :=
  if s.idx = 1 then State.goto (afterLength s.mode) s else s.idxOne

/-- Step 6 (R147): the start address, high byte first. -/
def s6Prim (s : State) : Except Refusal Prim := .ok (.byte (fieldByte s.startAddr s.idx))
def s6After (s : State) : State := if s.idx = 1 then State.goto 7 s else s.idxOne

/-- Step 7 (R148): `neg8(CKSUM)`, read before the primitive. -/
def s7Prim (s : State) : Except Refusal Prim := .ok (.byte (neg8 s.cksum))
def s7After (s : State) : State := State.goto 8 s

/-- Step 8 (R149): two dummy bytes. -/
def s8Prim (_s : State) : Except Refusal Prim := .ok (.byte Config.dummy)
def s8After (s : State) : State := if s.idx = 1 then State.goto 9 s else s.idxOne

/-- Step 9 (R150): `EMIT_SILENCE 1000`. -/
def s9Prim (_s : State) : Except Refusal Prim := .ok (.silence Config.gapMs)
def s9After (s : State) : State := State.goto 10 s

/-- Step 10 (R151): `EMIT_BIT 1`, 3600 times. -/
def s10Prim (_s : State) : Except Refusal Prim := .ok (.bit true)
def s10After (s : State) : State := if s.idx = leaderLast then State.goto 11 s else s.nextIdx

/-- Step 11 (R152): the data key-code, then `CKSUM <- 0`; step 12 is left out for an empty program. -/
def s11Prim (s : State) : Except Refusal Prim := .ok (.byte (dataKey s.mode))
def s11After (s : State) : State :=
  State.goto (if s.progLen = 0 then 13 else 12) s.clearCksum

/-- Step 12 (R153): the program bytes. -/
def s12Prim (s : State) : Except Refusal Prim := (progByte s).map Prim.byte
def s12After (s : State) : State := if s.idx = s.progLen - 1 then State.goto 13 s else s.nextIdx

/-- Step 13 (R154): `neg8(CKSUM)`, read before the primitive. -/
def s13Prim (s : State) : Except Refusal Prim := .ok (.byte (neg8 s.cksum))
def s13After (s : State) : State := State.goto 14 s

/-- Step 14 (R155): two dummy bytes. -/
def s14Prim (_s : State) : Except Refusal Prim := .ok (.byte Config.dummy)
def s14After (s : State) : State := if s.idx = 1 then State.goto 15 s else s.idxOne

/-- Step 15 (R156): `EMIT_SILENCE 10`, and the run ends. -/
def s15Prim (_s : State) : Except Refusal Prim := .ok (.silence Config.leadOutMs)
def s15After (s : State) : State := State.flagsFinished (State.goto 0 s)

/-- `S1_SIL_IN` (R142). -/
def execS1SilIn (s : State) : Outcome := issueStep s1Prim s1After s
/-- `S2_LDR_H` (R143). -/
def execS2LdrH (s : State) : Outcome := issueStep s2Prim s2After s
/-- `S3_KEY_H` (R144). -/
def execS3KeyH (s : State) : Outcome := issueStep s3Prim s3After s
/-- `S4_NAME` (R145). -/
def execS4Name (s : State) : Outcome := issueStep s4Prim s4After s
/-- `S5_LEN` (R146). -/
def execS5Len (s : State) : Outcome := issueStep s5Prim s5After s
/-- `S6_ADDR` (R147). -/
def execS6Addr (s : State) : Outcome := issueStep s6Prim s6After s
/-- `S7_CKS_H` (R148). -/
def execS7CksH (s : State) : Outcome := issueStep s7Prim s7After s
/-- `S8_DUM_H` (R149). -/
def execS8DumH (s : State) : Outcome := issueStep s8Prim s8After s
/-- `S9_SIL_GAP` (R150). -/
def execS9SilGap (s : State) : Outcome := issueStep s9Prim s9After s
/-- `S10_LDR_D` (R151). -/
def execS10LdrD (s : State) : Outcome := issueStep s10Prim s10After s
/-- `S11_KEY_D` (R152). -/
def execS11KeyD (s : State) : Outcome := issueStep s11Prim s11After s
/-- `S12_DATA` (R153). -/
def execS12Data (s : State) : Outcome := issueStep s12Prim s12After s
/-- `S13_CKS_D` (R154). -/
def execS13CksD (s : State) : Outcome := issueStep s13Prim s13After s
/-- `S14_DUM_D` (R155). -/
def execS14DumD (s : State) : Outcome := issueStep s14Prim s14After s
/-- `S15_SIL_OUT` (R156). -/
def execS15SilOut (s : State) : Outcome := issueStep s15Prim s15After s

end Sys2Proof.Machine
end

