-- ==== Sys2Proof/Machine/Wire.lean ====
section
/-! DEFINITION. The wire patterns of 30_encoding.md as instructions: the two bit cells, the frame and the
four key-codes. -/

namespace Sys2Proof.Machine

/-- `CELL_1` (R82): its sixteen samples (log entry 12). -/
def execCell1 (s : State) : Outcome := emitOnly (.bit true) s

/-- `CELL_0` (R83): its sixteen samples. -/
def execCell0 (s : State) : Outcome := emitOnly (.bit false) s

/-- `FRAME` (R85): the eleven cells of a byte. CKSUM is not touched: R21 names the only ways it is
written, and the frame pattern is not one (log entry 12). -/
def execFrame (b : Byte) (s : State) : Outcome := emitOnly (.byte b) s

/-- `KEY k` (R98): `EMIT_BYTE k` then `CKSUM <- 0`. -/
def issueKey (k : Byte) (s : State) : Outcome := issue (.byte k) State.clearCksum s

/-- `KEY_HEADER_MC` (R92, R98). -/
def execKeyHeaderMc (s : State) : Outcome := issueKey Config.keyHdrMc s

/-- `KEY_DATA_MC` (R92, R98). -/
def execKeyDataMc (s : State) : Outcome := issueKey Config.keyDatMc s

/-- `KEY_HEADER_BASIC` (R92, R98). No run emits it (R89, R164); given on its own it is the byte it names
(log entry 13). -/
def execKeyHeaderBasic (s : State) : Outcome := issueKey Config.keyHdrBasic s

/-- `KEY_DATA_BASIC` (R92, R98), as `KEY_HEADER_BASIC`. -/
def execKeyDataBasic (s : State) : Outcome := issueKey Config.keyDatBasic s

end Sys2Proof.Machine
end

