-- ==== Sys2Proof/Machine/Dispatch.lean ====
section
/-! DEFINITION. One arm per constructor of `Instr`. -/

namespace Sys2Proof.Machine

def exec (i : Instr) (s : State) : Host.Outcome State Fault Refusal :=
  match i with
  | .cell1 => Sys2Proof.Machine.execCell1 s
  | .cell0 => Sys2Proof.Machine.execCell0 s
  | .frame b => Sys2Proof.Machine.execFrame b s
  | .keyHeaderMc => Sys2Proof.Machine.execKeyHeaderMc s
  | .keyDataMc => Sys2Proof.Machine.execKeyDataMc s
  | .keyHeaderBasic => Sys2Proof.Machine.execKeyHeaderBasic s
  | .keyDataBasic => Sys2Proof.Machine.execKeyDataBasic s
  | .emitBit v => Sys2Proof.Machine.execEmitBit v s
  | .emitByte b => Sys2Proof.Machine.execEmitByte b s
  | .emitSilence ms => Sys2Proof.Machine.execEmitSilence ms s
  | .modcmdReserved => Sys2Proof.Machine.execModcmdReserved s
  | .startMc => Sys2Proof.Machine.execStartMc s
  | .startBasic => Sys2Proof.Machine.execStartBasic s
  | .idle => Sys2Proof.Machine.execIdle s
  | .s1SilIn => Sys2Proof.Machine.execS1SilIn s
  | .s2LdrH => Sys2Proof.Machine.execS2LdrH s
  | .s3KeyH => Sys2Proof.Machine.execS3KeyH s
  | .s4Name => Sys2Proof.Machine.execS4Name s
  | .s5Len => Sys2Proof.Machine.execS5Len s
  | .s6Addr => Sys2Proof.Machine.execS6Addr s
  | .s7CksH => Sys2Proof.Machine.execS7CksH s
  | .s8DumH => Sys2Proof.Machine.execS8DumH s
  | .s9SilGap => Sys2Proof.Machine.execS9SilGap s
  | .s10LdrD => Sys2Proof.Machine.execS10LdrD s
  | .s11KeyD => Sys2Proof.Machine.execS11KeyD s
  | .s12Data => Sys2Proof.Machine.execS12Data s
  | .s13CksD => Sys2Proof.Machine.execS13CksD s
  | .s14DumD => Sys2Proof.Machine.execS14DumD s
  | .s15SilOut => Sys2Proof.Machine.execS15SilOut s

end Sys2Proof.Machine
end

