-- ==== Sys2Proof/Machine/Inputs.lean ====
section
/-! DEFINITION. Fetching the next instruction, and what reaches the core from outside: the host's port
writes (10_state.md R30), command words, reset and the sink's wire, ranked as 60_exceptions.md R206
says. -/

namespace Sys2Proof.Machine

/-- The word the core runs next on its own: `STEP` while BUSY = 1 (R26, R140), else IDLE (R230). The positions
that R96 calls unreachable are stuck (log entry 11). -/
def fetch (s : State) : Except Fault PortWord :=
  if s.busy then
    if s.stepNo = 0 then .error .inconsistentPosition else .ok (.step s.stepNo)
  else if s.fault then .ok (.step 0)
  else if s.stepNo = 0 then .ok (.step 0)
  else .error .inconsistentPosition

/-- Run the instruction a word names. -/
def runWord (w : PortWord) (s : State) : Outcome :=
  match decode w with
  | .ok i => exec i s
  | .error e => .refused (.undecodable e)

/-- One model step of the core on its own (R140); when it is idle or faulted nothing changes. -/
def engineStep (s : State) : Outcome :=
  match fetch s with
  | .ok w => runWord w s
  | .error f => .fault f

/-- `CTRL.MODE` of a write (R30). -/
def ctrlMode (v : BitVec 32) : TapeMode := if v.getLsbD 1 then .basic else .machineCode

/-- A write of CTRL (R30, R95): with START = 1 the command, which carries MODE; with START = 0 MODE alone. The
reserved bits are ignored. -/
def writeCtrl (v : BitVec 32) (s : State) : Outcome :=
  match decode (.ctrl (v.extractLsb' 0 2)) with
  | .ok i => exec i s
  | .error _ => .next (writeMode (ctrlMode v) s)

/-- A parameter write, "write ignored when BUSY = 1" (R30). -/
def writeStartAddr (v : Half) (s : State) : State := if s.busy then s else { s with startAddr := v }
def writeProgLen (v : Half) (s : State) : State := if s.busy then s else { s with progLen := v }
def writeNameLen (n : Nat) (s : State) : State := if s.busy then s else { s with nameLen := n }

/-- The bytes of PROG the run uses (R63). -/
def usesProg (i : Nat) (s : State) : Bool := s.busy && i < s.progLen.toNat

/-- The bytes of NAME the run uses: "below min(NAME_LEN, 16)" (R63). -/
def usesName (i : Nat) (s : State) : Bool := s.busy && i < min s.nameLen Config.nameFieldLen

/-- The host places a byte of PROG. Changing a used byte during a run is refused (R63, R216); a placing
that changes nothing is no change (log entry 7). -/
def placeProg (i : Half) (b : Byte) (s : State) : Outcome :=
  if usesProg i.toNat s && Memory.read s.prog i.toNat != some b then .refused .inputChangedDuringRun
  else .next { s with prog := Memory.write s.prog i.toNat b }

/-- The host places a byte of NAME, as `placeProg`. -/
def placeName (i : Nat) (b : Byte) (s : State) : Outcome :=
  if usesName i s && Memory.read s.name i != some b then .refused .inputChangedDuringRun
  else .next { s with name := Memory.write s.name i b }

/-- The host takes the bytes of PROG from index `n` on away, as `placeProg`. -/
def truncateProg (n : Nat) (s : State) : Outcome :=
  if s.prog.any (fun c => decide (n ≤ c.1) && usesProg c.1 s) then .refused .inputChangedDuringRun
  else .next { s with prog := Memory.truncate s.prog n }

/-- The modulator is free for a word of the host: no run is in progress (R110, R234(h)), no fault has left OUT and
CKSUM for inspection (R207), and OUT is not a complete tape (R29, R62). Log entry 15. -/
def modulatorFree (s : State) : Bool := !s.busy && !s.done && !s.fault

/-- A word given to the modulator on its own, as parts P1 and P2 of 95_test_vectors.md do before a run. Anywhere
else R110 rules it out, and the model refuses it (DESIGN CHOICE, log entry 15). -/
def driveModulator (w : PortWord) (s : State) : Outcome :=
  if modulatorFree s then runWord w s else .refused .hostDrivesModulator

/-- One act of the host. -/
def runAct (a : HostAct) (s : State) : Outcome :=
  match a with
  | .writeCtrl v => writeCtrl v s
  | .writeStartAddr v => .next (writeStartAddr v s)
  | .writeProgLen v => .next (writeProgLen v s)
  | .writeNameLen n => .next (writeNameLen n s)
  | .writeReadOnly _ _ => .next s
  | .placeProg i b => placeProg i b s
  | .placeName i b => placeName i b s
  | .truncateProg n => truncateProg n s
  | .modcmd w => driveModulator (.modcmd w) s
  | .cell w => driveModulator (.cell w) s
  | .frame w => driveModulator (.frame w) s
  | .key w => driveModulator (.key w) s

/-- The sink's wire at an instant. -/
def sinkEvent (e : SinkEvent) (s : State) : State :=
  match e with
  | .keep => s
  | .sound => { s with sinkRoom := none }
  | .failsAfter n => { s with sinkRoom := some n }

/-- The model step a running core makes in the same instant as an act. `busy` is BUSY before the act,
so a START never takes its first step in its own instant. -/
def advanceAfter (busy : Bool) (o : Outcome) : Outcome :=
  match o with
  | .next t => if busy then engineStep t else .next t
  | .fault f => .fault f
  | .refused r => .refused r

/-- The act of an instant, if there is one. -/
def runOptAct (a : Option HostAct) (s : State) : Outcome :=
  match a with
  | some a => runAct a s
  | none => .next s

/-- One instant (R206): reset beats everything and what came with it is lost; an act is judged by BUSY as it
stands before the core's step of the same instant. -/
def runMoment (m : Moment) (s : State) : Outcome :=
  if m.reset then .next s.resetCore
  else advanceAfter (m.advance && s.busy) (runOptAct m.act (sinkEvent m.sink s))

/-- An instant in which the host does one act and nothing else happens. -/
def Moment.ofAct (a : HostAct) : Moment := ⟨false, .keep, some a, false⟩

end Sys2Proof.Machine
end

