-- ==== Sys2Proof/Machine/Step.lean ====
section
/-! DEFINITION. One step: the oldest instant waiting at the boundary, or else one model step of the core
(41_framing_engine.md R140); and how the host places a table word where the next step runs it. -/

namespace Sys2Proof.Machine

/-- One step of the machine. -/
def step (s : State) : Host.Outcome State Fault Refusal :=
  match s.inbox with
  | [] => engineStep s
  | m :: rest => runMoment m { s with inbox := rest }

/-- `s` with a host act as its only waiting instant. -/
def State.withAct (s : State) (a : HostAct) : State := { s with inbox := [Moment.ofAct a] }

/-- `s` at the sequencer position `k`, running for `k` other than 0. Step 12 is entered only with
`PROG_LEN >= 1` (R153), so an empty program gets one byte there (log entry 23). -/
def State.withStepNo (s : State) (k : BitVec 4) : State :=
  if k = 12 ∧ s.progLen = 0 then
    { s with inbox := [], stepNo := k, idx := 0, busy := true, progLen := 1,
             prog := if (Memory.read s.prog 0).isSome then s.prog else Memory.write s.prog 0 0 }
  else { s with inbox := [], stepNo := k, busy := k != 0 }

/-- `s` with the modulator free for a word of the host: as it stands where it is free, else at rest as before a
run. -/
def State.freed (s : State) : State :=
  if modulatorFree s then s
  else { s with busy := false, done := false, fault := false, fcode := 0, stepNo := 0, idx := 0, ticks := Ticks.zero }

/-- `s` with the word of a table row where `step` takes its next instruction: `STEP` for a step, CTRL or the
modulator's command for the others. -/
def State.withFetchWord (s : State) (nbits w : Nat) : State :=
  match tableWord nbits w with
  | some (.step k) => s.withStepNo k
  | some (.ctrl v) => s.withAct (.writeCtrl (v.zeroExtend 32))
  | some (.modcmd v) => s.freed.withAct (.modcmd v)
  | some (.cell v) => s.freed.withAct (.cell v)
  | some (.frame v) => s.freed.withAct (.frame v)
  | some (.key v) => s.freed.withAct (.key v)
  | none => s

end Sys2Proof.Machine
end

