-- ==== Sys2Proof/Machine/Container.lean ====
section
/-! DEFINITION. The container the host wraps around OUT (45_container_writer.md R191 to R195). It is outside
the core (00_scope.md R4): nothing of the step reads it. Its byte-level layout is PRESUMED (G1 of
93_implementation_defined.md, log entry 19). -/

namespace Sys2Proof.Machine

/-- A 16-bit field, low byte first. -/
def le16 (n : Nat) : List Byte := [BitVec.ofNat 8 n, BitVec.ofNat 8 (n / 256)]

/-- A 32-bit field, low byte first. -/
def le32 (n : Nat) : List Byte :=
  [BitVec.ofNat 8 n, BitVec.ofNat 8 (n / 256), BitVec.ofNat 8 (n / 65536), BitVec.ofNat 8 (n / 16777216)]

/-- "total file size − 8" (R193), for `n` samples. -/
def outerSize (n : Nat) : Nat := n + 44 - 8

/-- "total file size − 44" (R193), for `n` samples. -/
def dataSize (n : Nat) : Nat := n + 44 - 44

/-- The 12-byte outer tag, size and format tag (R191, R195). -/
def outerTag (n : Nat) : List Byte := [0x52, 0x49, 0x46, 0x46] ++ le32 (outerSize n) ++ [0x57, 0x41, 0x56, 0x45]

/-- The 24-byte format chunk: linear PCM, 1 channel, 19200 Hz, 19200 bytes a second, 1-byte blocks, 8 bits
(R191, R192, R195). -/
def formatChunk : List Byte :=
  [0x66, 0x6D, 0x74, 0x20] ++ le32 16 ++ le16 1 ++ le16 1 ++ le32 Config.sampleRate ++
  le32 Config.sampleRate ++ le16 1 ++ le16 8

/-- The data chunk's tag and size (R191, R195). -/
def dataTag (n : Nat) : List Byte := [0x64, 0x61, 0x74, 0x61] ++ le32 (dataSize n)

/-- The 44 bytes before the samples. -/
def containerHeader (n : Nat) : List Byte := outerTag n ++ formatChunk ++ dataTag n

/-- The file around a complete stream. -/
def container (s : State) : List Byte := containerHeader s.out.length ++ s.out

end Sys2Proof.Machine
end

