-- ==== Sys2Proof/Machine/Launch.lean ====
section
/-! DEFINITION. The host's duties before START (70_reset_and_hazards.md R232, 45_container_writer.md R196,
60_exceptions.md R201, R203): the checks the core does not make, and the instants at the ports that launch a
run. They stand outside the core: the step never reads them. -/

namespace Sys2Proof.Machine

/-- What a caller asks for (41_framing_engine.md R141): mode, load address, name and program. -/
structure Request where
  mode : TapeMode
  startAddr : Nat
  name : List Byte
  prog : List Byte
deriving DecidableEq, Repr

/-- The error kinds of R201 that the core's inputs can raise; the others concern files and arguments. -/
inductive HostError
  | unsupportedMode
  | addressOutOfRange
  | inputTooLarge
deriving DecidableEq, Repr

/-- The instants that place a list of bytes in PROG from index `i` on. -/
def placeProgFrom : Nat → List Byte → List Moment
  | _, [] => []
  | i, b :: rest => Moment.ofAct (.placeProg (BitVec.ofNat 16 i) b) :: placeProgFrom (i + 1) rest

/-- The instants that place a list of bytes in NAME from index `i` on. -/
def placeNameFrom : Nat → List Byte → List Moment
  | _, [] => []
  | i, b :: rest => Moment.ofAct (.placeName i b) :: placeNameFrom (i + 1) rest

/-- The validation of R232 (2). The order of the checks is a DESIGN CHOICE (log entry 20). -/
def validate (r : Request) : Except HostError Unit :=
  if r.mode = .basic then .error .unsupportedMode
  else if r.startAddr ≤ Config.maxStartAddr then
    if r.prog.length ≤ Config.maxProgLen then .ok () else .error .inputTooLarge
  else .error .addressOutOfRange

/-- The launch of R232, steps (3), (4) and (6), after the checks of (2). An older image is taken away first, so that
PROG holds the whole image and nothing else. -/
def launch (r : Request) : Except HostError (List Moment) :=
  (validate r).map fun _ =>
    Moment.ofAct (.truncateProg 0) :: placeProgFrom 0 r.prog ++ placeNameFrom 0 r.name ++
    [Moment.ofAct (.writeCtrl 0), Moment.ofAct (.writeStartAddr (BitVec.ofNat 16 r.startAddr)),
     Moment.ofAct (.writeProgLen (BitVec.ofNat 16 r.prog.length)),
     Moment.ofAct (.writeNameLen r.name.length), Moment.ofAct (.writeCtrl 1)]

end Sys2Proof.Machine
end

