-- ==== Sys2Proof/Machine/Ports.lean ====
section
/-! DEFINITION. What the host reads at the ports (10_state.md R30). Reading has no side effect (R30, R214),
so a read is a function of the state and no step. -/

namespace Sys2Proof.Machine

/-- MODE as a bit (R22). -/
def modeBit : TapeMode → BitVec 1
  | .machineCode => 0
  | .basic => 1

/-- Port 0, CTRL: START reads 0, MODE in bit 1, the rest 0. -/
def readCtrl (s : State) : BitVec 32 := 0#30 ++ modeBit s.mode ++ 0#1

/-- Port 1, STATUS: FCODE in bits 4:3, FAULT in bit 2, DONE in bit 1, BUSY in bit 0, the rest 0. -/
def readStatus (s : State) : BitVec 32 :=
  0#27 ++ s.fcode ++ BitVec.ofBool s.fault ++ BitVec.ofBool s.done ++ BitVec.ofBool s.busy

/-- Port 2, START_ADDR. -/
def readStartAddr (s : State) : Half := s.startAddr

/-- Port 3, PROG_LEN. -/
def readProgLen (s : State) : Half := s.progLen

/-- Port 4, NAME_LEN. -/
def readNameLen (s : State) : Nat := s.nameLen

/-- Port 5, CKSUM. -/
def readCksum (s : State) : Byte := s.cksum

/-- Port 6, UPC: STEP in bits 19:16, IDX in bits 15:0. -/
def readUpc (s : State) : BitVec 20 := s.stepNo ++ s.idx

end Sys2Proof.Machine
end

