-- ==== Sys2Proof/Machine/Ticks.lean ====
section
/-! DEFINITION. The per-sample refinement (40_modulator.md R115 to R117, 10_state.md R31): one sample a
tick. It is not architectural; 00_scope.md R5 asks that it produce the same stream as the step. -/

namespace Sys2Proof.Machine

/-- How a tick ends. -/
inductive TickEnd
  | more (s : State)
  | finished (s : State)
  | failed (s : State)

/-- Sample `k` of a bit cell: `HIGH` when `k[2] = 0` for a 1, when `k[3] = 0` for a 0 (R115). -/
def cellSample (v : Bool) (k : BitVec 4) : Sample :=
  if v then (if k.getLsbD 2 then Config.low else Config.high)
  else (if k.getLsbD 3 then Config.low else Config.high)

/-- `F[j]` with `F = 0x600 + 2 * SHREG`, the bit sent while BITPOS = j (R116, R85). -/
def frameBit (shreg : Byte) (j : BitVec 4) : Bool :=
  (0x600#11 + 2#11 * shreg.zeroExtend 11).getLsbD j.toNat

/-- `Emit(x)` (R9): one sample, or the sink's failure at it (R204). -/
def emitOne (x : Sample) (s : State) : Emission :=
  match s.sinkStopsAt 1 with
  | some _ => .failed (State.raise Config.fcodeOutputUnwritable s)
  | none => .finished { s with out := s.out ++ [x], sinkRoom := s.sinkRoom.map (fun k => k - 1) }

/-- No sample of the primitive has been emitted yet. -/
def Prim.unstarted (p : Prim) (t : Ticks) : Bool :=
  match p with
  | .bit _ => t.sampos = 0
  | .byte _ => t.sampos = 0 && t.bitpos = 0
  | .silence _ => t.silcnt = 0

/-- What issuing a primitive loads (R115 to R117). -/
def Prim.load : Prim → Ticks
  | .bit _ => Ticks.zero
  | .byte b => ⟨0, 0, b, 0⟩
  | .silence ms => ⟨0, 0, 0, BitVec.ofNat 32 (silenceCount ms)⟩

/-- After a sample of `EMIT_BIT`: `SAMPOS <- (k + 1) mod 16`, finished on `k = 15` (R115). -/
def bitTicked (s : State) : TickEnd :=
  let t := { s with ticks := { s.ticks with sampos := s.ticks.sampos + 1 } }
  if s.ticks.sampos = 15 then .finished t else .more t

/-- After a sample of `EMIT_BYTE` (R116). On the last tick CKSUM takes SHREG and all four registers are 0
(R31; log entry 4). -/
def byteTicked (s : State) : TickEnd :=
  if s.ticks.sampos = 15 then
    if s.ticks.bitpos = 10 then .finished { s.addCksum s.ticks.shreg with ticks := Ticks.zero }
    else .more { s with ticks := { s.ticks with sampos := 0, bitpos := s.ticks.bitpos + 1 } }
  else .more { s with ticks := { s.ticks with sampos := s.ticks.sampos + 1 } }

/-- After a sample of `EMIT_SILENCE`: `SILCNT <- SILCNT - 1`, finished when it is 0 (R117). -/
def silenceTicked (s : State) : TickEnd :=
  let t := { s with ticks := { s.ticks with silcnt := s.ticks.silcnt - 1 } }
  if s.ticks.silcnt = 1 then .finished t else .more t

/-- The sample of a tick, from the refinement registers. -/
def Prim.tickSample (p : Prim) (t : Ticks) : Sample :=
  match p with
  | .bit v => cellSample v t.sampos
  | .byte _ => cellSample (frameBit t.shreg t.bitpos) t.sampos
  | .silence _ => Config.mid

/-- The register writes of a tick once its sample is out. -/
def Prim.ticked (p : Prim) (s : State) : TickEnd :=
  match p with
  | .bit _ => bitTicked s
  | .byte _ => byteTicked s
  | .silence _ => silenceTicked s

/-- One tick of a primitive in progress. -/
def tick (p : Prim) (s : State) : TickEnd :=
  match emitOne (p.tickSample s.ticks) s with
  | .failed t => .failed t
  | .finished t => p.ticked t

/-- One tick of a step of the engine: the primitive is issued on its first tick, and the step's register
writes follow its last one. A silence of no samples finishes without emitting (R117). -/
def tickStepOf (prim : State → Except Refusal Prim) (after : State → State) (s : State) : Outcome :=
  match prim s with
  | .error r => .refused r
  | .ok p =>
    if p.admitted then
      let s1 := if p.unstarted s.ticks then { s with ticks := p.load } else s
      if p.samples = [] then .next (after s1)
      else
        match tick p s1 with
        | .more t => .next t
        | .finished t => .next (after t)
        | .failed t => .next t
    else .refused .silenceTooLong

/-- One tick of the core on its own: one sample of the step that `STEP` names while BUSY = 1, else
nothing. -/
def tickStep (s : State) : Outcome :=
  if s.busy then
    match s.stepNo.toNat with
    | 0 => .fault .inconsistentPosition
    | 1 => tickStepOf s1Prim s1After s
    | 2 => tickStepOf s2Prim s2After s
    | 3 => tickStepOf s3Prim s3After s
    | 4 => tickStepOf s4Prim s4After s
    | 5 => tickStepOf s5Prim s5After s
    | 6 => tickStepOf s6Prim s6After s
    | 7 => tickStepOf s7Prim s7After s
    | 8 => tickStepOf s8Prim s8After s
    | 9 => tickStepOf s9Prim s9After s
    | 10 => tickStepOf s10Prim s10After s
    | 11 => tickStepOf s11Prim s11After s
    | 12 => tickStepOf s12Prim s12After s
    | 13 => tickStepOf s13Prim s13After s
    | 14 => tickStepOf s14Prim s14After s
    | _ => tickStepOf s15Prim s15After s
  else .next s

/-- `n` ticks, stopping where one gives no next state. -/
def runTicks : Nat → State → Outcome
  | 0, s => .next s
  | n + 1, s =>
    match tickStep s with
    | .next t => runTicks n t
    | .fault f => .fault f
    | .refused r => .refused r

end Sys2Proof.Machine
end

