-- ==== Sys2Proof/Safety.lean ====
section
/-! DEFINITION. The terms claims are stated in: the host's contract (60_exceptions.md R216), the sink's
premise (00_scope.md R7), how a run ends (41_framing_engine.md R157), the tape as one function (R160 to
R162), and the invariants. -/

namespace Sys2Proof.Machine

/-! ### Premises -/

/-- The host backs every index it declares (R64); the whole contract of a launch is `Contract`. -/
def Backed (s : State) : Prop :=
  (∀ i, i < s.progLen.toNat → (Memory.read s.prog i).isSome) ∧
  (∀ i, i < min s.nameLen 16 → (Memory.read s.name i).isSome)

/-- The sink does not stop the next `n` samples: `sink_error` matters only while BUSY = 1 (R204). -/
def SinkTakes (n : Nat) (s : State) : Prop :=
  s.busy = true → ∀ k, s.sinkRoom = some k → n ≤ k

/-- The byte step 4 needs at this position is there: below 16, and backed where the name covers it (R52, R145). -/
abbrev NameReadable (s : State) : Prop :=
  s.idx.toNat < s.nameLen → s.idx.toNat < 16 ∧ (Memory.read s.name s.idx.toNat).isSome

/-- The byte step 12 needs at this position is there (R51, R153). -/
abbrev DataReadable (s : State) : Prop :=
  s.idx.toNat < s.progLen.toNat ∧ (Memory.read s.prog s.idx.toNat).isSome

/-- A state in which the host may launch: idle, not faulted, inputs backed, nothing else waiting. -/
structure Launchable (s : State) : Prop where
  idle : s.busy = false
  sound : s.fault = false
  contract : Contract s
  quiet : s.inbox = []

/-! ### The effect of samples -/

/-- `s` with `xs` appended to OUT and taken by the sink. -/
def State.afterSamples (xs : List Sample) (s : State) : State :=
  { s with out := s.out ++ xs, sinkRoom := s.sinkRoom.map (fun k => k - xs.length) }

/-- OutputUnwritable taken before sample `k` of `xs` (R204, R207); `t` is what the refinement registers
hold. -/
def State.unwritable (xs : List Sample) (k : Nat) (t : Ticks) (s : State) : State :=
  { s with fault := true, fcode := 2, busy := false, out := s.out ++ xs.take k, ticks := t,
           sinkRoom := some 0 }

/-! ### How a run ends -/

/-- "ends normally" (R157). -/
structure EndsNormally (s : State) : Prop where
  busy : s.busy = false
  done : s.done = true
  fault : s.fault = false
  position : s.stepNo = 0

/-- "ends in fault" (R157). -/
def EndsInFault (s : State) : Prop := s.fault = true

/-! ### The tape as one function -/

/-- `f_i` of R160. Where the host has not backed a declared index the value means nothing; claims take
`Contract`. -/
def nameFieldByte (s : State) (i : Nat) : Byte :=
  if i < s.nameLen then (Memory.read s.name i).getD 0 else 0x20

/-- The sixteen bytes of the name field (R160). -/
def nameField (s : State) : List Byte := (List.range 16).map (nameFieldByte s)

/-- The program bytes `p_0 .. p_(L-1)` (R161), read as `nameFieldByte` reads the name. -/
def image (s : State) : List Byte :=
  (List.range s.progLen.toNat).map (fun i => (Memory.read s.prog i).getD 0)

/-- `[v[15:8], v[7:0]]` (R161). -/
def bigEndian (v : Half) : List Byte := [highByte v, lowByte v]

/-- The summed bytes of the header record, offsets 1 to 20 of R88. -/
def headerSummed (s : State) : List Byte := nameField s ++ bigEndian s.progLen ++ bigEndian s.startAddr

/-- `WIRE_H` (R161). -/
def wireHeader (s : State) : List Byte :=
  [0x26] ++ headerSummed s ++ [neg8 (headerSummed s).sum] ++ [0x00, 0x00]

/-- `WIRE_D` (R161). -/
def wireData (s : State) : List Byte := [0x27] ++ image s ++ [neg8 (image s).sum] ++ [0x00, 0x00]

/-- A leader tone: 3600 cells of a 1 (R87). -/
def leader : List Sample := (List.replicate 3600 (cell true)).flatten

/-- The samples of a run (R162). -/
def tape (s : State) : List Sample :=
  List.replicate 192 0x80 ++ leader ++ (wireHeader s).flatMap frame ++ List.replicate 19200 0x80 ++
  leader ++ (wireData s).flatMap frame ++ List.replicate 192 0x80

/-! ### The primitive of an instruction -/

/-- The primitive an instruction issues, with its operand (R98, R111 to R113, the table of R140); none where it
issues none or its operand is not there. -/
def issuedPrim (i : Instr) (s : State) : Option Prim :=
  match i with
  | .cell1 => some (.bit true)
  | .cell0 => some (.bit false)
  | .frame b => some (.byte b)
  | .keyHeaderMc => some (.byte 0x26)
  | .keyDataMc => some (.byte 0x27)
  | .keyHeaderBasic => some (.byte 0x16)
  | .keyDataBasic => some (.byte 0x17)
  | .emitBit v => some (.bit v)
  | .emitByte b => some (.byte b)
  | .emitSilence ms => if ms.toNat * 192 < 4294967296 then some (.silence ms) else none
  | .modcmdReserved => none
  | .startMc => none
  | .startBasic => none
  | .idle => none
  | .s1SilIn => some (.silence 10)
  | .s2LdrH => some (.bit true)
  | .s3KeyH => some (.byte (if s.mode = .machineCode then 0x26 else 0x16))
  | .s4Name => if NameReadable s then some (.byte (nameFieldByte s s.idx.toNat)) else none
  | .s5Len => some (.byte (if s.idx = 0 then highByte s.progLen else lowByte s.progLen))
  | .s6Addr => some (.byte (if s.idx = 0 then highByte s.startAddr else lowByte s.startAddr))
  | .s7CksH => some (.byte (neg8 s.cksum))
  | .s8DumH => some (.byte 0)
  | .s9SilGap => some (.silence 1000)
  | .s10LdrD => some (.bit true)
  | .s11KeyD => some (.byte (if s.mode = .machineCode then 0x27 else 0x17))
  | .s12Data => if DataReadable s then some (.byte ((Memory.read s.prog s.idx.toNat).getD 0)) else none
  | .s13CksD => some (.byte (neg8 s.cksum))
  | .s14DumD => some (.byte 0)
  | .s15SilOut => some (.silence 10)

/-! ### Where a run stands -/

/-- The primitives of step `k` in order, for `MODE = 0` (R140, R160, R161). -/
def stepPrims (s : State) (k : Nat) : List Prim :=
  match k with
  | 1 => [.silence 10]
  | 2 => List.replicate 3600 (.bit true)
  | 3 => [.byte 0x26]
  | 4 => (nameField s).map .byte
  | 5 => (bigEndian s.progLen).map .byte
  | 6 => (bigEndian s.startAddr).map .byte
  | 7 => [.byte (neg8 (headerSummed s).sum)]
  | 8 => [.byte 0, .byte 0]
  | 9 => [.silence 1000]
  | 10 => List.replicate 3600 (.bit true)
  | 11 => [.byte 0x27]
  | 12 => (image s).map .byte
  | 13 => [.byte (neg8 (image s).sum)]
  | 14 => [.byte 0, .byte 0]
  | 15 => [.silence 10]
  | _ => []

/-- The primitives a run has issued when it stands at the position `(STEP, IDX)`. -/
def issuedSoFar (s : State) : List Prim :=
  (List.range s.stepNo.toNat).flatMap (stepPrims s) ++ (stepPrims s s.stepNo.toNat).take s.idx.toNat

/-- What OUT holds at the position `(STEP, IDX)` of a run. -/
def emittedSoFar (s : State) : List Sample := (issuedSoFar s).flatMap Prim.samples

/-- What CKSUM holds at the position `(STEP, IDX)` (R159). -/
def runningChecksum (s : State) : Byte :=
  match s.stepNo.toNat with
  | 4 => ((nameField s).take s.idx.toNat).sum
  | 5 => (nameField s ++ (bigEndian s.progLen).take s.idx.toNat).sum
  | 6 => (nameField s ++ bigEndian s.progLen ++ (bigEndian s.startAddr).take s.idx.toNat).sum
  | 7 => (headerSummed s).sum
  | 12 => ((image s).take s.idx.toNat).sum
  | 13 => (image s).sum
  | _ => 0

/-- The next position after a model step that does not fault (the table of R158). -/
def nextPosition (s : State) : BitVec 4 × Half :=
  match s.stepNo.toNat with
  | 1 => (2, 0)
  | 2 => if s.idx.toNat < 3599 then (2, s.idx + 1) else (3, 0)
  | 3 => (4, 0)
  | 4 => if s.idx.toNat < 15 then (4, s.idx + 1) else (5, 0)
  | 5 => if s.idx = 0 then (5, 1) else if s.mode = .machineCode then (6, 0) else (7, 0)
  | 6 => if s.idx = 0 then (6, 1) else (7, 0)
  | 7 => (8, 0)
  | 8 => if s.idx = 0 then (8, 1) else (9, 0)
  | 9 => (10, 0)
  | 10 => if s.idx.toNat < 3599 then (10, s.idx + 1) else (11, 0)
  | 11 => if 0 < s.progLen.toNat then (12, 0) else (13, 0)
  | 12 => if s.idx.toNat < s.progLen.toNat - 1 then (12, s.idx + 1) else (13, 0)
  | 13 => (14, 0)
  | 14 => if s.idx = 0 then (14, 1) else (15, 0)
  | _ => (0, 0)

/-- The largest IDX in each step (R27). -/
def lastIdx (s : State) : Nat :=
  match s.stepNo.toNat with
  | 2 => 3599
  | 4 => 15
  | 5 => 1
  | 6 => 1
  | 8 => 1
  | 10 => 3599
  | 12 => s.progLen.toNat - 1
  | 14 => 1
  | _ => 0

/-- The position is one a run can stand at (R27, R153). -/
def PositionLegal (s : State) : Prop :=
  s.stepNo ≠ 0 ∧ s.idx.toNat ≤ lastIdx s ∧ (s.stepNo = 12 → 0 < s.progLen.toNat)

/-! ### Invariants -/

/-- What holds in every state reachable from reset, whatever the host and the sink do. -/
structure Inv (s : State) : Prop where
  /-- "At most one of BUSY, DONE, FAULT is 1 at any time" (R29). -/
  oneFlag : (s.busy = true → s.done = false ∧ s.fault = false) ∧ (s.done = true → s.fault = false)
  /-- FCODE names the fault, and is 0 where there is none (R29). -/
  code : (s.fault = false → s.fcode = 0) ∧ (s.fault = true → s.fcode = 1 ∨ s.fcode = 2)
  /-- "in every run that emits samples MODE = 0" (R22). -/
  machineCode : s.busy = true → s.mode = .machineCode
  /-- A running core stands at a position of the sequence (R26, R27). -/
  running : s.busy = true → PositionLegal s
  /-- A core that neither runs nor has faulted is at `(0, 0)` (R26, R96). -/
  idle : s.busy = false → s.fault = false → s.stepNo = 0 ∧ s.idx = 0
  /-- The refinement registers are 0 when no primitive is in progress (R31). -/
  noPrimitive : s.fault = false → s.ticks = Ticks.zero
  /-- "Every sample the core ever emits is one of three values" (R53). -/
  threeLevels : ∀ x ∈ s.out, x = 0xFF ∨ x = 0x00 ∨ x = 0x80
  /-- "The host must back every index" a run uses (R64), during the run too (R63). -/
  backed : s.busy = true → Backed s
  /-- PROG is in its canonical form. -/
  progWf : Memory.wf s.prog
  /-- NAME is in its canonical form. -/
  nameWf : Memory.wf s.name

/-- What a run keeps whatever the host and the sink do: CKSUM is the sum of R159 from the header's first summed byte
on (what it held before step 3 "has no effect on anything", R144), and OUT is the part of the tape issued so far. -/
structure StreamInv (s : State) : Prop extends Inv s where
  recordSum : s.busy = true → 4 ≤ s.stepNo.toNat → s.cksum = runningChecksum s
  stream : s.busy = true → s.out = emittedSoFar s

/-- The act goes to a port of R30 or to the host's memories, not to the modulator on its own. -/
def HostAct.isPort : HostAct → Bool
  | .modcmd _ => false
  | .cell _ => false
  | .frame _ => false
  | .key _ => false
  | _ => true

/-- No command word or wire pattern is waiting for the modulator: "never by the host directly" (R110). -/
def PortsOnly (s : State) : Prop := ∀ m ∈ s.inbox, ∀ a, m.act = some a → a.isPort = true

/-- What holds as well when the modulator is driven by the engine alone: CKSUM is the sum of R159 at every
position, so 0 wherever START is accepted (R36). -/
structure RunInv (s : State) : Prop extends StreamInv s where
  portsOnly : PortsOnly s
  checksum : s.fault = false → s.cksum = runningChecksum s

end Sys2Proof.Machine
end

