-- ==== Sys2Proof/WellFormed.lean ====
section
/-! DEFINITION. Which instructions the spec gives a meaning: all but the two that R96 says a model
refuses. Every other operand bound is carried by the operand's type. -/

namespace Sys2Proof

/-- The duration bound of `EMIT_SILENCE` (R113): `ms * 192 < 2^32`. -/
def Instr.silenceInRange (ms : BitVec 32) : Bool := ms.toNat * 192 < 4294967296

/-- The spec gives this instruction a meaning (R96: the reserved command and a silence past its limit
are refused). -/
def Instr.wellFormed : Instr → Bool
  | .emitSilence ms => Instr.silenceInRange ms
  | .modcmdReserved => false
  | .cell1 | .cell0 | .frame _ | .keyHeaderMc | .keyDataMc | .keyHeaderBasic | .keyDataBasic
  | .emitBit _ | .emitByte _ | .startMc | .startBasic | .idle | .s1SilIn | .s2LdrH | .s3KeyH
  | .s4Name | .s5Len | .s6Addr | .s7CksH | .s8DumH | .s9SilGap | .s10LdrD | .s11KeyD | .s12Data
  | .s13CksD | .s14DumD | .s15SilOut => true

end Sys2Proof
end

