-- ==== Sys2Proof/Certificates/Slice0/Obligations.lean ====
section
/-! DEFINITION. The statements for the provers. Each docstring says which rule of spec/ it formalises; a
statement that rests on a choice of the model names the log entry. -/

open Sys2Proof Sys2Proof.Machine

/-! ### Encoding -/

/-- Decoding what the encoder writes gives the instruction back, for every instruction and operand
(R94, R95, R100). -/
def Obligations.DecodeOfEncodeGivesInstructionBack : Prop :=
  ∀ i : Instr, decode (encode i) = .ok i

/-- Where no bit of a word is ignored, the word is the one the encoder writes; a modulator command word
and the encoder's agree in every bit the command reads (R94). -/
def Obligations.EncodeOfDecodeGivesWordBack : Prop :=
  (∀ (p : PortWord) (i : Instr), decode p = .ok i → (∀ w, p ≠ .modcmd w) → encode i = p) ∧
  (∀ w : BitVec 34, ∃ w', encode (decodeModcmd w) = .modcmd w' ∧
    w'.extractLsb' 32 2 = w.extractLsb' 32 2 ∧
    (w.extractLsb' 32 2 = 0 → w'.getLsbD 0 = w.getLsbD 0) ∧
    (w.extractLsb' 32 2 = 1 → w'.extractLsb' 0 8 = w.extractLsb' 0 8) ∧
    (w.extractLsb' 32 2 = 2 → w' = w))

/-- A word of each format, written out from the table, decodes to the instruction it stands for. -/
def Obligations.TableWordsDecodeAsWritten : Prop :=
  decode (.cell 0b1111000011110000) = .ok .cell1 ∧
  decode (.cell 0b1111111100000000) = .ok .cell0 ∧
  decode (.frame 0b00110010011) = .ok (.frame 0x26) ∧
  decode (.key 0b00100111) = .ok .keyDataMc ∧
  decode (.modcmd 0b0000000000000000000000000000000001) = .ok (.emitBit true) ∧
  decode (.modcmd 0b0100000000000000000000000010100101) = .ok (.emitByte 0xA5) ∧
  decode (.modcmd 0b1000000000000000000000001111101000) = .ok (.emitSilence 1000) ∧
  decode (.modcmd 0b1100000000000000000000000000000000) = .ok .modcmdReserved ∧
  decode (.ctrl 0b01) = .ok .startMc ∧
  decode (.step 0b1100) = .ok .s12Data

/-- The words that are no instruction are refused by name: a byte that is no key-code, a CTRL write without
START, a frame without its start and stop bits, a pattern that is no cell (R85, R92, R95, R96). -/
def Obligations.WordsThatAreNoInstructionAreRefused : Prop :=
  (∀ w : Byte, (∃ i, decode (.key w) = .ok i) ↔ w = 0x26 ∨ w = 0x27 ∨ w = 0x16 ∨ w = 0x17) ∧
  (∀ w : BitVec 2, (∃ i, decode (.ctrl w) = .ok i) ↔ w.getLsbD 0 = true) ∧
  (∀ w : BitVec 11, (∃ i, decode (.frame w) = .ok i) ↔
    w.getLsbD 10 = false ∧ w.getLsbD 1 = true ∧ w.getLsbD 0 = true) ∧
  (∀ w : BitVec 16, (∃ i, decode (.cell w) = .ok i) ↔ w = 0xF0F0 ∨ w = 0xFF00)

/-! ### The modulator -/

/-- `EMIT_BIT v` (R111), the command `op = 00` with `v` in bit 0: the sixteen samples of its cell, and nothing
else changes. -/
def Obligations.EmitBitAppendsItsCell : Prop :=
  (∀ w : BitVec 34, w.extractLsb' 32 2 = 0 → decode (.modcmd w) = .ok (.emitBit (w.getLsbD 0))) ∧
  ∀ s : State, SinkTakes 16 s →
    exec (.emitBit true) s = .next (s.afterSamples
      [0xFF, 0xFF, 0xFF, 0xFF, 0x00, 0x00, 0x00, 0x00, 0xFF, 0xFF, 0xFF, 0xFF, 0x00, 0x00, 0x00, 0x00]) ∧
    exec (.emitBit false) s = .next (s.afterSamples
      [0xFF, 0xFF, 0xFF, 0xFF, 0xFF, 0xFF, 0xFF, 0xFF, 0x00, 0x00, 0x00, 0x00, 0x00, 0x00, 0x00, 0x00])

/-- `EMIT_BYTE b` (R112), the command `op = 01` with `b` in bits 7:0: the cells of a start bit 0, of `b[0]` to
`b[7]` and of two stop bits 1, then `CKSUM <- (CKSUM + b) mod 256`; nothing else changes. -/
def Obligations.EmitByteSendsFrameAndAddsToChecksum : Prop :=
  (∀ w : BitVec 34, w.extractLsb' 32 2 = 1 → decode (.modcmd w) = .ok (.emitByte (w.extractLsb' 0 8))) ∧
  ∀ (b : Byte) (s : State), SinkTakes 176 s →
    exec (.emitByte b) s = .next
      { s.afterSamples (cell false ++ ((List.range 8).flatMap fun i => cell (b.getLsbD i)) ++
          cell true ++ cell true) with
        cksum := BitVec.ofNat 8 ((s.cksum.toNat + b.toNat) % 256) }

/-- `EMIT_SILENCE ms` (R113), the command `op = 10` with `ms` in bits 31:0: `ms * 192 / 10` samples of 0x80 while
`ms * 192 < 2^32`, and refused beyond. -/
def Obligations.EmitSilenceAppendsMidSamples : Prop :=
  (∀ w : BitVec 34, w.extractLsb' 32 2 = 2 → decode (.modcmd w) = .ok (.emitSilence (w.extractLsb' 0 32))) ∧
  ∀ (ms : BitVec 32) (s : State),
    (ms.toNat * 192 < 2 ^ 32 → SinkTakes (ms.toNat * 192 / 10) s →
      exec (.emitSilence ms) s = .next (s.afterSamples (List.replicate (ms.toNat * 192 / 10) 0x80))) ∧
    (2 ^ 32 ≤ ms.toNat * 192 → exec (.emitSilence ms) s = .refused .silenceTooLong)

/-- The reserved modulator command is refused in every state (R96). -/
def Obligations.ReservedCommandIsRefused : Prop :=
  (∀ w : BitVec 34, w.extractLsb' 32 2 = 3 → decode (.modcmd w) = .ok .modcmdReserved) ∧
  ∀ s : State, exec .modcmdReserved s = .refused .reservedCommand

/-- The frame and cell patterns append their samples and write no register (R82, R83, R85; that a pattern given
on its own does so is log entry 12). -/
def Obligations.WirePatternsAppendTheirSamples : Prop :=
  ∀ s : State,
    (SinkTakes 16 s →
      exec .cell1 s = .next (s.afterSamples
        [0xFF, 0xFF, 0xFF, 0xFF, 0x00, 0x00, 0x00, 0x00, 0xFF, 0xFF, 0xFF, 0xFF, 0x00, 0x00, 0x00, 0x00]) ∧
      exec .cell0 s = .next (s.afterSamples
        [0xFF, 0xFF, 0xFF, 0xFF, 0xFF, 0xFF, 0xFF, 0xFF, 0x00, 0x00, 0x00, 0x00, 0x00, 0x00, 0x00, 0x00])) ∧
    ∀ b : Byte, SinkTakes 176 s →
      exec (.frame b) s = .next (s.afterSamples
        ((List.range 11).flatMap fun i => cell ((0x600 + 2 * b.toNat).testBit i)))

/-- The four key-codes, given as the pseudo-operation `KEY k` (R92, R98): the frame of `k`, then CKSUM is 0;
nothing else changes (log entry 13). -/
def Obligations.KeyCodesAreSentAndLeaveChecksumZero : Prop :=
  ∀ s : State, SinkTakes 176 s →
    exec .keyHeaderMc s = .next { s.afterSamples (frame 0x26) with cksum := 0 } ∧
    exec .keyDataMc s = .next { s.afterSamples (frame 0x27) with cksum := 0 } ∧
    exec .keyHeaderBasic s = .next { s.afterSamples (frame 0x16) with cksum := 0 } ∧
    exec .keyDataBasic s = .next { s.afterSamples (frame 0x17) with cksum := 0 }

/-- Different bytes give different frames (R119). -/
def Obligations.FramesOfDifferentBytesDiffer : Prop :=
  ∀ a b : Byte, frame a = frame b → a = b

/-! ### The command -/

/-- `START_MC` where it is accepted (R141): DONE <- 0, OUT <- [], BUSY <- 1, upc <- (1, 0), with MODE written
first; nothing else changes. A run whose contract the host has broken (R216) is refused instead; that the refusal
stands at START, and what the image's true length is, is log entry 8. -/
def Obligations.StartMachineCodeBeginsRun : Prop :=
  ∀ s : State, s.busy = false → s.fault = false →
    (Contract s → exec .startMc s = .next
      { s with mode := .machineCode, done := false, out := [], busy := true, stepNo := 1, idx := 0 }) ∧
    (¬ Contract s → exec .startMc s = .refused .contractBroken)

/-- `START_BASIC` where it would be accepted raises UnsupportedMode (R202): FAULT <- 1, FCODE <- 1, DONE <- 0,
OUT <- [], BUSY and STEP stay. -/
def Obligations.StartBasicRaisesUnsupportedMode : Prop :=
  ∀ s : State, s.busy = false → s.fault = false →
    exec .startBasic s = .next
      { s with mode := .basic, done := false, out := [], fault := true, fcode := 1 }

/-- A START that is not accepted (R141): while BUSY = 1 nothing changes; while FAULT = 1 the write of MODE alone
is left (R30, vector V-X2; log entry 25). -/
def Obligations.StartNotAcceptedChangesNothingElse : Prop :=
  ∀ s : State,
    (s.busy = true → exec .startMc s = .next s ∧ exec .startBasic s = .next s) ∧
    (s.busy = false → s.fault = true →
      exec .startMc s = .next { s with mode := .machineCode } ∧
      exec .startBasic s = .next { s with mode := .basic })

/-- `IDLE` changes nothing (R26, R230), and neither does a step of an idle or faulted core with no input waiting,
whatever the sink's wire says (R204: "sink_error while BUSY = 0 has no effect on the core"). -/
def Obligations.IdleCoreChangesNothing : Prop :=
  ∀ s : State, exec .idle s = .next s ∧
    (s.inbox = [] → s.busy = false → (s.fault = true ∨ s.stepNo = 0) → step s = .next s)

/-! ### The fifteen steps -/

/-- Steps 1 and 9 (R142, R150): 192 and 19200 samples of 0x80, then the next step. -/
def Obligations.SilenceStepsMoveOn : Prop :=
  decode (.step 1) = .ok .s1SilIn ∧ decode (.step 9) = .ok .s9SilGap ∧
  ∀ s : State,
    (SinkTakes 192 s → exec .s1SilIn s = .next
      { s.afterSamples (List.replicate 192 0x80) with stepNo := 2, idx := 0 }) ∧
    (SinkTakes 19200 s → exec .s9SilGap s = .next
      { s.afterSamples (List.replicate 19200 0x80) with stepNo := 10, idx := 0 })

/-- Step 15 (R156): 192 samples of 0x80, `upc <- (0, 0)`, BUSY <- 0, DONE <- 1. -/
def Obligations.LastStepEndsRun : Prop :=
  ∀ s : State, SinkTakes 192 s → exec .s15SilOut s = .next
    { s.afterSamples (List.replicate 192 0x80) with stepNo := 0, idx := 0, busy := false, done := true }

/-- Steps 2 and 10 (R143, R151): one cell of a 1; the step ends at IDX = 3599. -/
def Obligations.LeaderStepsSendOneBit : Prop :=
  ∀ s : State, SinkTakes 16 s →
    exec .s2LdrH s = .next
      (if s.idx = 3599 then { s.afterSamples (cell true) with stepNo := 3, idx := 0 }
       else { s.afterSamples (cell true) with idx := s.idx + 1 }) ∧
    exec .s10LdrD s = .next
      (if s.idx = 3599 then { s.afterSamples (cell true) with stepNo := 11, idx := 0 }
       else { s.afterSamples (cell true) with idx := s.idx + 1 })

/-- Step 3 (R144): the header key-code is sent and CKSUM is 0 after it. -/
def Obligations.HeaderKeyStepClearsChecksum : Prop :=
  decode (.step 3) = .ok .s3KeyH ∧
  ∀ s : State, SinkTakes 176 s → exec .s3KeyH s = .next
    { s.afterSamples (frame (if s.mode = .machineCode then 0x26 else 0x16)) with
      cksum := 0, stepNo := 4, idx := 0 }

/-- Step 11 (R152): the data key-code is sent, CKSUM is 0 after it, and step 12 is left out when
PROG_LEN = 0. -/
def Obligations.DataKeyStepClearsChecksum : Prop :=
  decode (.step 11) = .ok .s11KeyD ∧
  ∀ s : State, SinkTakes 176 s → exec .s11KeyD s = .next
    { s.afterSamples (frame (if s.mode = .machineCode then 0x27 else 0x17)) with
      cksum := 0, stepNo := if s.progLen = 0 then 13 else 12, idx := 0 }

/-- Step 4 (R145): the byte of NAME at IDX, or the pad past the name; CKSUM takes it; the step ends at IDX = 15. -/
def Obligations.NameStepSendsNameOrPad : Prop :=
  ∀ (s : State) (b : Byte), SinkTakes 176 s →
    (s.idx.toNat < s.nameLen → s.idx.toNat < 16 ∧ Memory.read s.name s.idx.toNat = some b) →
    (s.nameLen ≤ s.idx.toNat → b = 0x20) →
    exec .s4Name s = .next
      (if s.idx = 15 then { s.afterSamples (frame b) with cksum := s.cksum + b, stepNo := 5, idx := 0 }
       else { s.afterSamples (frame b) with cksum := s.cksum + b, idx := s.idx + 1 })

/-- Step 5 (R146): PROG_LEN, high byte then low byte; after it step 6, or step 7 for Basic. -/
def Obligations.LengthStepSendsHighByteFirst : Prop :=
  decode (.step 5) = .ok .s5Len ∧
  ∀ s : State, SinkTakes 176 s →
    (s.idx = 0 → exec .s5Len s = .next
      { s.afterSamples (frame (BitVec.ofNat 8 (s.progLen.toNat / 256))) with
        cksum := s.cksum + BitVec.ofNat 8 (s.progLen.toNat / 256), idx := 1 }) ∧
    (s.idx = 1 → exec .s5Len s = .next
      { s.afterSamples (frame (BitVec.ofNat 8 (s.progLen.toNat % 256))) with
        cksum := s.cksum + BitVec.ofNat 8 (s.progLen.toNat % 256),
        stepNo := if s.mode = .machineCode then 6 else 7, idx := 0 })

/-- Step 6 (R147): START_ADDR, high byte then low byte. -/
def Obligations.AddressStepSendsHighByteFirst : Prop :=
  ∀ s : State, SinkTakes 176 s →
    (s.idx = 0 → exec .s6Addr s = .next
      { s.afterSamples (frame (BitVec.ofNat 8 (s.startAddr.toNat / 256))) with
        cksum := s.cksum + BitVec.ofNat 8 (s.startAddr.toNat / 256), idx := 1 }) ∧
    (s.idx = 1 → exec .s6Addr s = .next
      { s.afterSamples (frame (BitVec.ofNat 8 (s.startAddr.toNat % 256))) with
        cksum := s.cksum + BitVec.ofNat 8 (s.startAddr.toNat % 256), stepNo := 7, idx := 0 })

/-- Steps 7 and 13 (R148, R154): the frame of `(256 - CKSUM) mod 256`, with CKSUM read before; CKSUM is 0
after it. -/
def Obligations.ChecksumStepsSendNegationAndLeaveZero : Prop :=
  ∀ s : State, SinkTakes 176 s →
    exec .s7CksH s = .next
      { s.afterSamples (frame (BitVec.ofNat 8 (256 - s.cksum.toNat))) with
        cksum := 0, stepNo := 8, idx := 0 } ∧
    exec .s13CksD s = .next
      { s.afterSamples (frame (BitVec.ofNat 8 (256 - s.cksum.toNat))) with
        cksum := 0, stepNo := 14, idx := 0 }

/-- Steps 8 and 14 (R149, R155): a frame of 0x00; the step ends at IDX = 1. -/
def Obligations.DummyStepsSendZeroBytes : Prop :=
  decode (.step 8) = .ok .s8DumH ∧ decode (.step 14) = .ok .s14DumD ∧
  ∀ s : State, SinkTakes 176 s →
    exec .s8DumH s = .next
      (if s.idx = 1 then { s.afterSamples (frame 0) with stepNo := 9, idx := 0 }
       else { s.afterSamples (frame 0) with idx := 1 }) ∧
    exec .s14DumD s = .next
      (if s.idx = 1 then { s.afterSamples (frame 0) with stepNo := 15, idx := 0 }
       else { s.afterSamples (frame 0) with idx := 1 })

/-- Step 12 (R153): the byte of PROG at IDX; CKSUM takes it; the step ends at `IDX = PROG_LEN - 1`. -/
def Obligations.DataStepSendsProgramByte : Prop :=
  ∀ (s : State) (b : Byte), SinkTakes 176 s → s.idx.toNat < s.progLen.toNat →
    Memory.read s.prog s.idx.toNat = some b →
    exec .s12Data s = .next
      (if s.idx.toNat = s.progLen.toNat - 1 then
        { s.afterSamples (frame b) with cksum := s.cksum + b, stepNo := 13, idx := 0 }
       else { s.afterSamples (frame b) with cksum := s.cksum + b, idx := s.idx + 1 })

/-- Where a step stops at an input: step 12 and step 4 at a declared index whose byte is not there (R64, R216; that
the stop is at the read is log entry 6), step 12 at an index not below PROG_LEN, and step 4 at a declared index of
16 or more, whatever stands there: the core has no such read (R9, R51, R52; that it is refused is log entry 24). -/
def Obligations.UnbackedInputIsRefused : Prop :=
  ∀ s : State,
    (s.idx.toNat < s.progLen.toNat → Memory.read s.prog s.idx.toNat = none →
      exec .s12Data s = .refused .progIndexUnbacked) ∧
    (s.progLen.toNat ≤ s.idx.toNat → exec .s12Data s = .refused .progIndexUndeclared) ∧
    (s.idx.toNat < s.nameLen → s.idx.toNat < 16 → Memory.read s.name s.idx.toNat = none →
      exec .s4Name s = .refused .nameIndexUnbacked) ∧
    (s.idx.toNat < s.nameLen → 16 ≤ s.idx.toNat → exec .s4Name s = .refused .nameIndexUndeclared)

/-- The position after a model step that does not fault is the one of the table of R158, and the run ends after
step 15 alone. -/
def Obligations.PositionFollowsTransferTable : Prop :=
  ∀ s t : State, s.busy = true → PositionLegal s → exec (decodeStep s.stepNo) s = .next t →
    t.fault = false → (t.stepNo, t.idx) = nextPosition s ∧ (t.busy = false ↔ s.stepNo = 15)

/-! ### Faults -/

/-- OutputUnwritable (R204) for every instruction that emits: FAULT <- 1, FCODE <- 2, BUSY <- 0, OUT keeps the
samples before the failing one and none after; STEP, IDX, CKSUM and the rest keep their values. -/
def Obligations.SinkFailureStopsAtItsSample : Prop :=
  ∀ (i : Instr) (s : State) (p : Prim) (k : Nat), issuedPrim i s = some p → s.busy = true →
    s.sinkRoom = some k → k < p.samples.length →
    ∃ regs, exec i s = .next
      { s with fault := true, fcode := 2, busy := false, out := s.out ++ p.samples.take k, ticks := regs,
               sinkRoom := some 0 }

/-- `sink_error` on the sample that would complete step 15 wins over completion (R206). That OUT then holds the
samples before it is decision D28 (U5; log entry 17). -/
def Obligations.SinkFailureBeatsCompletion : Prop :=
  ∀ s t : State, s.busy = true → s.done = false → s.sinkRoom = some 191 → exec .s15SilOut s = .next t →
    t.fault = true ∧ t.fcode = 2 ∧ t.done = false ∧ t.busy = false ∧ t.stepNo = s.stepNo ∧
    t.out = s.out ++ List.replicate 191 0x80

/-- FAULT and FCODE are sticky (R208): no step but a reset clears or changes them, and no run starts. The position,
CKSUM and OUT stay as the fault left them (R207). -/
def Obligations.FaultIsClearedOnlyByReset : Prop :=
  ∀ s t : State, s.fault = true → s.busy = false → step s = .next t →
    (∀ m rest, s.inbox = m :: rest → m.reset = false) →
    t.fault = true ∧ t.fcode = s.fcode ∧ t.busy = false ∧ t.stepNo = s.stepNo ∧ t.idx = s.idx ∧
    t.cksum = s.cksum ∧ t.out = s.out

/-- Reset (R230, R35) from any state and together with anything else (R206): every item of R35 has its value
there, and what the host and the environment own stays (log entry 10). -/
def Obligations.ResetBeatsEverything : Prop :=
  ∀ (s : State) (m : Moment) (rest : List Moment), s.inbox = m :: rest → m.reset = true →
    step s = .next
      { cksum := 0, mode := .machineCode, startAddr := 0, progLen := 0, nameLen := 0, stepNo := 0, idx := 0,
        busy := false, done := false, fault := false, fcode := 0, out := [], ticks := ⟨0, 0, 0, 0⟩,
        prog := s.prog, name := s.name, sinkRoom := s.sinkRoom, inbox := rest }

/-- The state after reset holds the values of R35. -/
def Obligations.ResetStateHoldsItsValues : Prop :=
  State.reset.stepNo = 0 ∧ State.reset.idx = 0 ∧ State.reset.cksum = 0 ∧ State.reset.busy = false ∧
  State.reset.done = false ∧ State.reset.fault = false ∧ State.reset.fcode = 0 ∧
  State.reset.mode = .machineCode ∧ State.reset.startAddr = 0 ∧ State.reset.progLen = 0 ∧
  State.reset.nameLen = 0 ∧ State.reset.out = [] ∧ State.reset.ticks = ⟨0, 0, 0, 0⟩

/-! ### Frames -/

/-- No instruction writes a parameter other than MODE, the host's memories or the inputs still to come, and only
the two START commands write MODE (R20, R30, R50). -/
def Obligations.InstructionsKeepParametersAndMemories : Prop :=
  ∀ (i : Instr) (s t : State), exec i s = .next t →
    t.startAddr = s.startAddr ∧ t.progLen = s.progLen ∧ t.nameLen = s.nameLen ∧
    (∀ a, Memory.read t.prog a = Memory.read s.prog a) ∧
    (∀ a, Memory.read t.name a = Memory.read s.name a) ∧ t.inbox = s.inbox ∧
    (i ≠ .startMc → i ≠ .startBasic → t.mode = s.mode)

/-- CKSUM is written only by what sends a byte through `EMIT_BYTE` and by the key-codes (R21): every other
instruction leaves it as it was. That the pattern FRAME given on its own is not `EMIT_BYTE`, and so leaves it, is
log entry 12. -/
def Obligations.OnlyFramedBytesWriteChecksum : Prop :=
  ∀ (i : Instr) (s t : State), exec i s = .next t →
    (i = .cell1 ∨ i = .cell0 ∨ (∃ b, i = .frame b) ∨ (∃ v, i = .emitBit v) ∨ (∃ ms, i = .emitSilence ms) ∨
      i = .startMc ∨ i = .startBasic ∨ i = .idle ∨ i = .s1SilIn ∨ i = .s2LdrH ∨ i = .s8DumH ∨
      i = .s9SilGap ∨ i = .s10LdrD ∨ i = .s14DumD ∨ i = .s15SilOut) →
    t.cksum = s.cksum

/-- OUT is append-only (R32): every instruction but START leaves the samples already there. -/
def Obligations.OutIsAppendOnly : Prop :=
  ∀ (i : Instr) (s t : State), exec i s = .next t → i ≠ .startMc → i ≠ .startBasic → s.out <+: t.out

/-- The status items change only as R29 says: START and step 15 apart, an instruction leaves all four, or takes
OutputUnwritable from a running core. -/
def Obligations.StatusChangesOnlyAsListed : Prop :=
  ∀ (i : Instr) (s t : State), exec i s = .next t → i ≠ .startMc → i ≠ .startBasic → i ≠ .s15SilOut →
    (t.busy = s.busy ∧ t.done = s.done ∧ t.fault = s.fault ∧ t.fcode = s.fcode) ∨
    (s.busy = true ∧ t.busy = false ∧ t.done = s.done ∧ t.fault = true ∧ t.fcode = 2)

/-- The position is moved only by the steps and by START: the other instructions leave STEP and IDX (R26, R27). -/
def Obligations.OnlyStepsAndStartMovePosition : Prop :=
  ∀ (i : Instr) (s t : State), exec i s = .next t →
    (i = .cell1 ∨ i = .cell0 ∨ (∃ b, i = .frame b) ∨ i = .keyHeaderMc ∨ i = .keyDataMc ∨
      i = .keyHeaderBasic ∨ i = .keyDataBasic ∨ (∃ v, i = .emitBit v) ∨ (∃ b, i = .emitByte b) ∨
      (∃ ms, i = .emitSilence ms) ∨ i = .idle) →
    t.stepNo = s.stepNo ∧ t.idx = s.idx

/-! ### The ports -/

/-- A parameter write is taken while BUSY = 0 and ignored while BUSY = 1; a write of a read-only port is
ignored (R30; log entry 16). CTRL with START = 0 writes MODE alone. -/
def Obligations.ParameterWritesAreIgnoredWhileBusy : Prop :=
  ∀ (s : State) (a : Half) (n : Nat) (v : BitVec 32) (p : ReadOnlyPort),
    runAct (.writeReadOnly p v) s = .next s ∧
    (s.busy = true →
      runAct (.writeStartAddr a) s = .next s ∧ runAct (.writeProgLen a) s = .next s ∧
      runAct (.writeNameLen n) s = .next s ∧ runAct (.writeCtrl v) s = .next s) ∧
    (s.busy = false →
      runAct (.writeStartAddr a) s = .next { s with startAddr := a } ∧
      runAct (.writeProgLen a) s = .next { s with progLen := a } ∧
      runAct (.writeNameLen n) s = .next { s with nameLen := n } ∧
      (v.getLsbD 0 = false → runAct (.writeCtrl v) s = .next
        { s with mode := if v.getLsbD 1 then .basic else .machineCode }) ∧
      (v.getLsbD 0 = true → runAct (.writeCtrl v) s =
        exec (if v.getLsbD 1 then .startBasic else .startMc) s))

/-- The host may not change a used byte of PROG or NAME during a run, nor take one away (R63): refused. A byte the
run does not use, and any byte while the core is idle, is placed, and every other index reads as before; the bytes
from an index on are taken away, and every index below reads as before. -/
def Obligations.UsedInputsMustStayStable : Prop :=
  ∀ (s : State) (i : Half) (j n : Nat) (b : Byte),
    (s.busy = true → i.toNat < s.progLen.toNat → Memory.read s.prog i.toNat ≠ some b →
      runAct (.placeProg i b) s = .refused .inputChangedDuringRun) ∧
    (s.busy = true → j < min s.nameLen 16 → Memory.read s.name j ≠ some b →
      runAct (.placeName j b) s = .refused .inputChangedDuringRun) ∧
    (s.busy = false ∨ s.progLen.toNat ≤ i.toNat → ∃ m, runAct (.placeProg i b) s = .next { s with prog := m } ∧
      Memory.read m i.toNat = some b ∧ ∀ a, a ≠ i.toNat → Memory.read m a = Memory.read s.prog a) ∧
    (s.busy = false ∨ min s.nameLen 16 ≤ j → ∃ m, runAct (.placeName j b) s = .next { s with name := m } ∧
      Memory.read m j = some b ∧ ∀ a, a ≠ j → Memory.read m a = Memory.read s.name a) ∧
    (s.busy = true → n ≤ j → j < s.progLen.toNat → (Memory.read s.prog j).isSome →
      runAct (.truncateProg n) s = .refused .inputChangedDuringRun) ∧
    (s.busy = false ∨ s.progLen.toNat ≤ n → ∃ m, runAct (.truncateProg n) s = .next { s with prog := m } ∧
      ∀ a, Memory.read m a = if a < n then Memory.read s.prog a else none)

/-- The bits the host reads at CTRL, STATUS and UPC (R30). -/
def Obligations.PortBitsReadAsListed : Prop :=
  ∀ s : State,
    ((readCtrl s).getLsbD 0 = false ∧ ((readCtrl s).getLsbD 1 = true ↔ s.mode = .basic) ∧
      (readCtrl s).extractLsb' 2 30 = 0) ∧
    ((readStatus s).getLsbD 0 = s.busy ∧ (readStatus s).getLsbD 1 = s.done ∧
      (readStatus s).getLsbD 2 = s.fault ∧ (readStatus s).extractLsb' 3 2 = s.fcode ∧
      (readStatus s).extractLsb' 5 27 = 0) ∧
    ((readUpc s).extractLsb' 16 4 = s.stepNo ∧ (readUpc s).extractLsb' 0 16 = s.idx) ∧
    s.doneEvent = s.done ∧ s.faultEvent = s.fault

/-- A START or any other CTRL write in the instant of a running core's model step is ignored (R206): the step
happens as without it. -/
def Obligations.StartInTheInstantOfAStepIsIgnored : Prop :=
  ∀ (s : State) (v : BitVec 32) (rest : List Moment), s.busy = true → s.stepNo ≠ 0 →
    s.inbox = ⟨false, .keep, some (.writeCtrl v), true⟩ :: rest →
    step s = exec (decodeStep s.stepNo) { s with inbox := rest }

/-! ### A step runs the decoded instruction -/

/-- With no input waiting a running core's step is the instruction that STEP names, an idle or faulted one's is
IDLE; a word waiting at CTRL is taken from the inbox and run (log entry 1). The model's own choice (log entries 1
and 15): a word given to the modulator on its own is run where the core is free, and refused during a run, after a
complete one and after a fault, since R110 says "never by the host directly". -/
def Obligations.StepRunsTheDecodedInstruction : Prop :=
  ∀ (s : State) (i : Instr) (rest : List Moment),
    (s.inbox = [] → s.busy = true → s.stepNo ≠ 0 → decode (.step s.stepNo) = .ok i → step s = exec i s) ∧
    (s.inbox = [] → s.busy = false → (s.fault = true ∨ s.stepNo = 0) → decode (.step 0) = .ok i →
      step s = exec i s) ∧
    (∀ v : BitVec 32, s.inbox = ⟨false, .keep, some (.writeCtrl v), false⟩ :: rest →
      decode (.ctrl (v.extractLsb' 0 2)) = .ok i → step s = exec i { s with inbox := rest }) ∧
    (s.busy = false → s.done = false → s.fault = false →
      (∀ w : BitVec 34, s.inbox = ⟨false, .keep, some (.modcmd w), false⟩ :: rest →
        decode (.modcmd w) = .ok i → step s = exec i { s with inbox := rest }) ∧
      (∀ w : BitVec 16, s.inbox = ⟨false, .keep, some (.cell w), false⟩ :: rest →
        decode (.cell w) = .ok i → step s = exec i { s with inbox := rest }) ∧
      (∀ w : BitVec 11, s.inbox = ⟨false, .keep, some (.frame w), false⟩ :: rest →
        decode (.frame w) = .ok i → step s = exec i { s with inbox := rest }) ∧
      (∀ w : Byte, s.inbox = ⟨false, .keep, some (.key w), false⟩ :: rest →
        decode (.key w) = .ok i → step s = exec i { s with inbox := rest })) ∧
    (∀ a : HostAct, a.isPort = false → s.inbox = ⟨false, .keep, some a, false⟩ :: rest →
      s.busy = true ∨ s.done = true ∨ s.fault = true → step s = .refused .hostDrivesModulator)

/-- A position that contradicts BUSY has no step (R96 gives it no semantics; the stop's name is log entry 11). -/
def Obligations.InconsistentPositionIsStuck : Prop :=
  ∀ s : State, s.inbox = [] →
    (s.busy = true ∧ s.stepNo = 0) ∨ (s.busy = false ∧ s.fault = false ∧ s.stepNo ≠ 0) →
    step s = .fault .inconsistentPosition

/-- A word of the opcode table placed where the machine fetches is the next instruction it runs (log entries 1, 2
and 23). -/
def Obligations.PlacedTableWordIsRunNext : Prop :=
  ∀ (s : State) (nbits w : Nat) (i : Instr), decodeTableWord nbits w = some i →
    step (s.withFetchWord nbits w) = exec i { s.withFetchWord nbits w with inbox := [] }

/-! ### Memory -/

/-- The host's memories: a byte just written is read back and every other index reads as before; a write keeps the
canonical form. -/
def Obligations.MemoryReadsWhatWasWritten : Prop :=
  ∀ (m : Memory) (a a' : Nat) (v : Byte), Memory.read (Memory.write m a v) a = some v ∧
    (a' ≠ a → Memory.read (Memory.write m a v) a' = Memory.read m a') ∧
    (Memory.wf m → Memory.wf (Memory.write m a v))

/-! ### Invariants -/

/-- The invariant holds after reset. -/
def Obligations.ResetStateMeetsInvariant : Prop := Inv State.reset

/-- Every step keeps the invariant: one status flag at most, FCODE names the fault, a running core is in
MachineCode mode and at a legal position, an idle one at `(0, 0)`, the refinement registers are 0 outside a
fault, OUT has three levels, the memories are canonical. -/
def Obligations.EveryStepKeepsInvariant : Prop :=
  ∀ s t : State, Inv s → step s = .next t → Inv t

/-- Where no word waits for the modulator on its own, every step keeps CKSUM at the sum of R159 at every position, so
at 0 wherever a START is accepted (R36), and OUT at the part of the tape issued so far. -/
def Obligations.EveryStepKeepsChecksumAndStream : Prop :=
  ∀ s t : State, RunInv s → step s = .next t → RunInv t

/-- The checksum byte of a record in a run is the two's complement of the sum of the record's bytes after its
key-code (R93, R159): 20 header bytes at step 7, the program bytes at step 13. -/
def Obligations.ParityByteNegatesTheRecordSum : Prop :=
  ∀ s : State, StreamInv s → s.busy = true → SinkTakes 176 s →
    (s.stepNo = 7 → ∃ t, exec (decodeStep s.stepNo) s = .next t ∧ t.cksum = 0 ∧
      t.out = s.out ++ frame (neg8 (nameField s ++ bigEndian s.progLen ++ bigEndian s.startAddr).sum)) ∧
    (s.stepNo = 13 → ∃ t, exec (decodeStep s.stepNo) s = .next t ∧ t.cksum = 0 ∧
      t.out = s.out ++ frame (neg8 (image s).sum))

/-! ### Whole runs -/

/-- From an accepted START the core reaches the normal end in exactly `7231 + PROG_LEN` model steps (R157), and OUT
is then the tape of R162: for every launch whose contract is kept and every sink that takes the whole tape. -/
def Obligations.CompleteRunWritesTheTape : Prop :=
  ∀ s : State, Launchable s → (∀ r, s.sinkRoom = some r → (tape s).length ≤ r) →
    ∃ t u, exec .startMc s = .next t ∧ core.run (7231 + s.progLen.toNat) t = .next u ∧ EndsNormally u ∧
      u.out = tape s ∧ u.cksum = 0 ∧
      ∀ n, n < 7231 + s.progLen.toNat → ∃ v, core.run n t = .next v ∧ v.busy = true

/-- A run whose sink fails before sample `r` ends in OutputUnwritable with the first `r` samples of the tape in
OUT (R204: "a strict prefix of the full stream"). OUT is invalid then (U5, log entry 17). -/
def Obligations.FailedRunHoldsPrefixOfTape : Prop :=
  ∀ (s : State) (r : Nat), Launchable s → s.sinkRoom = some r → r < 139712 + 176 * s.progLen.toNat →
    ∃ t u, exec .startMc s = .next t ∧ core.run (7231 + s.progLen.toNat) t = .next u ∧
      u.fault = true ∧ u.fcode = 2 ∧ u.busy = false ∧ u.done = false ∧ u.out = (tape s).take r

/-- The tape has `139712 + 176 * L` samples, 19584 of them 0x80, the rest split evenly between 0xFF and 0x00
(R65). -/
def Obligations.TapeLengthAndLevels : Prop :=
  ∀ s : State, (tape s).length = 139712 + 176 * s.progLen.toNat ∧
    (tape s).count 0x80 = 19584 ∧ (tape s).count 0xFF = (tape s).count 0x00

/-- The samples of a run are a function of START_ADDR, the name field, PROG_LEN and the program bytes alone (R170).
Two launches that agree in these both end, with the same OUT, whatever else differs (CKSUM, an earlier run's OUT,
DONE, the refinement registers, the rest of NAME). And two running cores that agree in these, wherever they stand
and whatever host acts and sinks brought them there, end with the same OUT when a step of each ends its run. -/
def Obligations.RunDependsOnItsInputsAlone : Prop :=
  ∀ s1 s2 : State, s1.startAddr = s2.startAddr → s1.progLen = s2.progLen →
    (∀ i, i < s1.progLen.toNat → Memory.read s1.prog i = Memory.read s2.prog i) →
    min s1.nameLen 16 = min s2.nameLen 16 →
    (∀ i, i < min s1.nameLen 16 → Memory.read s1.name i = Memory.read s2.name i) →
    (Launchable s1 → Launchable s2 → s1.sinkRoom = none → s2.sinkRoom = none →
      ∃ t1 t2 u1 u2, exec .startMc s1 = .next t1 ∧ exec .startMc s2 = .next t2 ∧
        core.run (7231 + s1.progLen.toNat) t1 = .next u1 ∧ core.run (7231 + s2.progLen.toNat) t2 = .next u2 ∧
        EndsNormally u1 ∧ EndsNormally u2 ∧ u1.out = u2.out) ∧
    (StreamInv s1 → StreamInv s2 → s1.busy = true → s2.busy = true →
      ∀ t1 t2, step s1 = .next t1 → step s2 = .next t2 → t1.done = true → t2.done = true → t1.out = t2.out)

/-! ### The per-sample refinement -/

/-- One sample a tick gives what one primitive a step gives (R115 to R117, R5): from a state with no primitive in
progress, as many ticks as the step's primitive has samples end in the step's own next state, whether or not the
sink fails. The values of the refinement registers after a failure are log entry 4. -/
def Obligations.TicksRefineTheStep : Prop :=
  ∀ (s t : State) (p : Prim), s.inbox = [] → s.busy = true → s.stepNo ≠ 0 → s.ticks = Ticks.zero →
    issuedPrim (decodeStep s.stepNo) s = some p → step s = .next t →
    runTicks p.samples.length s = .next t

/-! ### Around the core -/

/-- The host's checks before START (R201, R203, R232): Basic, an address above 0xFFFF and a program above 65535
bytes never reach the core. Which error a request with two of them gives (the mode's first, then the address's) is
the order chosen in log entry 20. -/
def Obligations.LaunchRefusesWhatTheCoreCannotCheck : Prop :=
  ∀ r : Request,
    (r.mode = .basic → launch r = .error .unsupportedMode) ∧
    (r.mode = .machineCode → 0xFFFF < r.startAddr → launch r = .error .addressOutOfRange) ∧
    (r.mode = .machineCode → r.startAddr ≤ 0xFFFF → 65535 < r.prog.length →
      launch r = .error .inputTooLarge)

/-- A launch that passes the checks brings an idle core to the first step of a run with the request's
parameters, every declared byte backed (R232, R64). -/
def Obligations.LaunchStartsTheRequestedRun : Prop :=
  ∀ (r : Request) (ms : List Moment) (s : State), launch r = .ok ms → s.busy = false → s.fault = false →
    s.inbox = ms → ∃ t, core.run ms.length s = .next t ∧ t.busy = true ∧ t.stepNo = 1 ∧ t.idx = 0 ∧
      t.out = [] ∧ t.inbox = [] ∧ t.mode = .machineCode ∧ t.startAddr.toNat = r.startAddr ∧
      t.progLen.toNat = r.prog.length ∧ t.nameLen = r.name.length ∧
      (∀ i, i < r.prog.length → Memory.read t.prog i = r.prog[i]?) ∧
      (∀ i, i < r.name.length → Memory.read t.name i = r.name[i]?)

/-- The container is 44 bytes and then the samples; the four bytes at offset 4 are the file's length less 8, the
four at offset 40 its length less 44 (R191, R193). That the fields stand there, low byte first, is log entry 19. -/
def Obligations.ContainerSizesMatchTheFile : Prop :=
  ∀ s : State, (container s).length = 44 + s.out.length ∧ (container s).drop 44 = s.out ∧
    ((container s).drop 4).take 4 = le32 ((container s).length - 8) ∧
    ((container s).drop 40).take 4 = le32 ((container s).length - 44)

/-! ### Runs whatever the host and the sink do -/

/-- Every step keeps a run's CKSUM and OUT where the run's position puts them, whatever host act, reset or sink event
comes with it (R36, R63, R110, R144, R170): the sum of R159 from the header's first summed byte on, and the part of
the tape issued so far. -/
def Obligations.NoHostActDisturbsTheRunningStream : Prop :=
  ∀ s t : State, StreamInv s → step s = .next t → StreamInv t

/-- Every running core has an enabled step (R218: "Stuck: never"), and no model step of a run is refused (R64, R216):
from every state of the invariant with nothing waiting, the next state is there. -/
def Obligations.RunningCoreAlwaysSteps : Prop :=
  ∀ s : State, Inv s → s.busy = true → s.inbox = [] → ∃ t, step s = .next t
end

