-- ==== Sys2Proof/Laws/Memory.lean ====
section
/-! SUPPORT. The laws of the host's memories: read after write, and the canonical form. -/

namespace Sys2Proof.Machine.Memory

/-- An index that was just written reads as the byte written. -/
@[simp] theorem read_write_same (m : Memory) (a : Nat) (v : Byte) : (m.write a v).read a = some v := by
  induction m with
  | nil => simp [write, read]
  | cons c rest ih =>
    obtain ⟨i, b⟩ := c
    simp only [write]
    split
    · simp [read]
    · split
      · simp_all [read]
      · simp_all [read]

/-- Every other index reads as before. -/
theorem read_write_other (m : Memory) {a a' : Nat} (v : Byte) (h : a' ≠ a) :
    (m.write a v).read a' = m.read a' := by
  induction m with
  | nil => simp [write, read, h]
  | cons c rest ih =>
    obtain ⟨i, b⟩ := c
    simp only [write]
    split
    · simp [read, h]
    · split
      · simp_all [read]
      · simp [read, ih]

/-- Where the byte is already there, writing it changes nothing that is read. -/
theorem read_write_present (m : Memory) {a : Nat} {v : Byte} (h : m.read a = some v) (a' : Nat) :
    (m.write a v).read a' = m.read a' := by
  by_cases e : a' = a
  · subst e; simp [h]
  · exact read_write_other m v e

/-- An index is readable exactly where it is listed. -/
theorem isSome_read_iff (m : Memory) (a : Nat) : (m.read a).isSome = true ↔ a ∈ m.map Prod.fst := by
  induction m with
  | nil => simp [read, unlisted]
  | cons c rest ih =>
    obtain ⟨i, b⟩ := c
    by_cases h : a = i <;> simp_all [read]

/-- Truncating takes the indices at `n` and above away, and no other. -/
theorem read_truncate (m : Memory) (n a : Nat) : (m.truncate n).read a = if a < n then m.read a else none := by
  induction m with
  | nil => simp [truncate, read, unlisted]
  | cons c rest ih =>
    obtain ⟨i, b⟩ := c
    simp only [truncate, List.filter_cons] at ih ⊢
    by_cases hi : i < n <;> by_cases ha : a = i <;> simp_all [read, Nat.not_lt.2]

/-- Truncating keeps the canonical form. -/
theorem wf_truncate {m : Memory} (n : Nat) (h : m.wf) : (m.truncate n).wf :=
  List.Pairwise.sublist (List.filter_sublist.map _) h

/-- A write adds at most its own index to the listed ones. -/
theorem keys_write (m : Memory) (a : Nat) (v : Byte) :
    ∀ i ∈ (m.write a v).map Prod.fst, i = a ∨ i ∈ m.map Prod.fst := by
  induction m with
  | nil => simp [write]
  | cons c rest ih =>
    obtain ⟨i, b⟩ := c
    simp only [write]
    split
    · simp
    · split
      · simp_all
      · simp only [List.map_cons, List.mem_cons]
        rintro j (rfl | hj)
        · simp
        · rcases ih j hj with h | h <;> simp_all

theorem wf_nil : wf [] := by simp [wf]

/-- Placing a byte keeps the canonical form. -/
theorem wf_write {m : Memory} (a : Nat) (v : Byte) (h : m.wf) : (m.write a v).wf := by
  induction m with
  | nil => simp [write, wf]
  | cons c rest ih =>
    obtain ⟨i, b⟩ := c
    simp only [wf, List.map_cons, List.pairwise_cons] at h
    simp only [write]
    split
    · rename_i hlt
      simp only [wf, List.map_cons, List.pairwise_cons, List.mem_cons]
      refine ⟨?_, h⟩
      rintro j (rfl | hj)
      · exact hlt
      · exact Nat.lt_trans hlt (h.1 j hj)
    · split
      · simpa [wf] using h
      · rename_i h1 h2
        simp only [wf, List.map_cons, List.pairwise_cons]
        refine ⟨fun j hj => ?_, ih h.2⟩
        rcases keys_write rest a v j hj with rfl | hj
        · omega
        · exact h.1 j hj

end Sys2Proof.Machine.Memory
end

