-- ==== Sys2Proof/Laws/Operands.lean ====
section
/-! SUPPORT. What each operand form gives: lengths of cells, frames and silences, and the laws of `neg8`. -/

namespace Sys2Proof.Machine

@[simp] theorem cell_length (v : Bool) : (cell v).length = 16 := by cases v <;> rfl

@[simp] theorem frameBits_length (b : Byte) : (frameBits b).length = 11 := rfl

@[simp] theorem frame_length (b : Byte) : (frame b).length = 176 := by simp [frame, frameBits]

@[simp] theorem silenceCount_10 : silenceCount 10#32 = 192 := by decide

@[simp] theorem silenceCount_1000 : silenceCount 1000#32 = 19200 := by decide

theorem silenceAdmitted_10 : silenceAdmitted 10 = true := by decide

theorem silenceAdmitted_1000 : silenceAdmitted 1000 = true := by decide

/-- How many samples each primitive appends (R118). -/
@[simp] theorem Prim.length_samples_bit (v : Bool) : (Prim.bit v).samples.length = 16 := cell_length v

@[simp] theorem Prim.length_samples_byte (b : Byte) : (Prim.byte b).samples.length = 176 := frame_length b

@[simp] theorem Prim.length_samples_silence (ms : BitVec 32) :
    (Prim.silence ms).samples.length = silenceCount ms := List.length_replicate

/-- A cell holds only `HIGH` and `LOW` (R84). -/
theorem mem_cell {v : Bool} {x : Sample} (h : x ∈ cell v) : x = 0xFF ∨ x = 0x00 := by
  cases v <;> simp [cell, Config.high, Config.low] at h <;> tauto

/-- So does a frame. -/
theorem mem_frame {b : Byte} {x : Sample} (h : x ∈ frame b) : x = 0xFF ∨ x = 0x00 := by
  obtain ⟨v, -, hx⟩ := List.mem_flatMap.1 h
  exact mem_cell hx

/-- Every sample of a primitive is one of the three levels (R53). -/
theorem Prim.mem_samples {p : Prim} {x : Sample} (h : x ∈ p.samples) :
    x = 0xFF ∨ x = 0x00 ∨ x = 0x80 := by
  cases p with
  | bit v => exact (mem_cell h).imp_right .inl
  | byte b => exact (mem_frame h).imp_right .inl
  | silence ms => exact .inr (.inr (List.eq_of_mem_replicate h))

/-- `c +8 neg8(c) = 0` always (R114). -/
@[simp] theorem add_neg8 (c : Byte) : c + neg8 c = 0 := by
  apply BitVec.eq_of_toNat_eq
  have := c.isLt
  simp [neg8, BitVec.toNat_add]
  omega

/-- A step's silence has a meaning. -/
@[simp] theorem Prim.admitted_silence_10 : (Prim.silence 10).admitted = true := by decide

@[simp] theorem Prim.admitted_silence_1000 : (Prim.silence 1000).admitted = true := by decide

@[simp] theorem Prim.admitted_byte (b : Byte) : (Prim.byte b).admitted = true := rfl

@[simp] theorem Prim.admitted_bit (v : Bool) : (Prim.bit v).admitted = true := rfl

/-- A silence has a meaning exactly while its product is below the limit (R113). -/
theorem Prim.admitted_silence_iff (ms : BitVec 32) :
    (Prim.silence ms).admitted = true ↔ ms.toNat * 192 < 4294967296 := decide_eq_true_iff

/-- A cell is its sixteen tick samples (R115). -/
theorem cell_eq_ticks (v : Bool) : cell v = (List.range 16).map (fun k => cellSample v (BitVec.ofNat 4 k)) := by
  cases v <;> decide

/-- The bits of a frame are the bits of `0x600 + 2 * b`, lowest first (R85, R116). -/
theorem frameBits_eq_ticks (b : Byte) :
    frameBits b = (List.range 11).map (fun j => frameBit b (BitVec.ofNat 4 j)) := by
  revert b; decide

end Sys2Proof.Machine
end

