-- ==== Sys2Proof/Laws/State.lean ====
section
/-! SUPPORT. One lemma per field per update of State, each true by rfl. -/

namespace Sys2Proof.Machine.State

@[simp] theorem goto_cksum (k : BitVec 4) (s : State) : (State.goto k s).cksum = s.cksum := rfl
@[simp] theorem goto_mode (k : BitVec 4) (s : State) : (State.goto k s).mode = s.mode := rfl
@[simp] theorem goto_startAddr (k : BitVec 4) (s : State) : (State.goto k s).startAddr = s.startAddr := rfl
@[simp] theorem goto_progLen (k : BitVec 4) (s : State) : (State.goto k s).progLen = s.progLen := rfl
@[simp] theorem goto_nameLen (k : BitVec 4) (s : State) : (State.goto k s).nameLen = s.nameLen := rfl
@[simp] theorem goto_stepNo (k : BitVec 4) (s : State) : (State.goto k s).stepNo = k := rfl
@[simp] theorem goto_idx (k : BitVec 4) (s : State) : (State.goto k s).idx = 0 := rfl
@[simp] theorem goto_busy (k : BitVec 4) (s : State) : (State.goto k s).busy = s.busy := rfl
@[simp] theorem goto_done (k : BitVec 4) (s : State) : (State.goto k s).done = s.done := rfl
@[simp] theorem goto_fault (k : BitVec 4) (s : State) : (State.goto k s).fault = s.fault := rfl
@[simp] theorem goto_fcode (k : BitVec 4) (s : State) : (State.goto k s).fcode = s.fcode := rfl
@[simp] theorem goto_out (k : BitVec 4) (s : State) : (State.goto k s).out = s.out := rfl
@[simp] theorem goto_ticks (k : BitVec 4) (s : State) : (State.goto k s).ticks = s.ticks := rfl
@[simp] theorem goto_prog (k : BitVec 4) (s : State) : (State.goto k s).prog = s.prog := rfl
@[simp] theorem goto_name (k : BitVec 4) (s : State) : (State.goto k s).name = s.name := rfl
@[simp] theorem goto_sinkRoom (k : BitVec 4) (s : State) : (State.goto k s).sinkRoom = s.sinkRoom := rfl
@[simp] theorem goto_inbox (k : BitVec 4) (s : State) : (State.goto k s).inbox = s.inbox := rfl

@[simp] theorem nextIdx_cksum (s : State) : (s.nextIdx).cksum = s.cksum := rfl
@[simp] theorem nextIdx_mode (s : State) : (s.nextIdx).mode = s.mode := rfl
@[simp] theorem nextIdx_startAddr (s : State) : (s.nextIdx).startAddr = s.startAddr := rfl
@[simp] theorem nextIdx_progLen (s : State) : (s.nextIdx).progLen = s.progLen := rfl
@[simp] theorem nextIdx_nameLen (s : State) : (s.nextIdx).nameLen = s.nameLen := rfl
@[simp] theorem nextIdx_stepNo (s : State) : (s.nextIdx).stepNo = s.stepNo := rfl
@[simp] theorem nextIdx_idx (s : State) : (s.nextIdx).idx = s.idx + 1 := rfl
@[simp] theorem nextIdx_busy (s : State) : (s.nextIdx).busy = s.busy := rfl
@[simp] theorem nextIdx_done (s : State) : (s.nextIdx).done = s.done := rfl
@[simp] theorem nextIdx_fault (s : State) : (s.nextIdx).fault = s.fault := rfl
@[simp] theorem nextIdx_fcode (s : State) : (s.nextIdx).fcode = s.fcode := rfl
@[simp] theorem nextIdx_out (s : State) : (s.nextIdx).out = s.out := rfl
@[simp] theorem nextIdx_ticks (s : State) : (s.nextIdx).ticks = s.ticks := rfl
@[simp] theorem nextIdx_prog (s : State) : (s.nextIdx).prog = s.prog := rfl
@[simp] theorem nextIdx_name (s : State) : (s.nextIdx).name = s.name := rfl
@[simp] theorem nextIdx_sinkRoom (s : State) : (s.nextIdx).sinkRoom = s.sinkRoom := rfl
@[simp] theorem nextIdx_inbox (s : State) : (s.nextIdx).inbox = s.inbox := rfl

@[simp] theorem idxOne_cksum (s : State) : (s.idxOne).cksum = s.cksum := rfl
@[simp] theorem idxOne_mode (s : State) : (s.idxOne).mode = s.mode := rfl
@[simp] theorem idxOne_startAddr (s : State) : (s.idxOne).startAddr = s.startAddr := rfl
@[simp] theorem idxOne_progLen (s : State) : (s.idxOne).progLen = s.progLen := rfl
@[simp] theorem idxOne_nameLen (s : State) : (s.idxOne).nameLen = s.nameLen := rfl
@[simp] theorem idxOne_stepNo (s : State) : (s.idxOne).stepNo = s.stepNo := rfl
@[simp] theorem idxOne_idx (s : State) : (s.idxOne).idx = 1 := rfl
@[simp] theorem idxOne_busy (s : State) : (s.idxOne).busy = s.busy := rfl
@[simp] theorem idxOne_done (s : State) : (s.idxOne).done = s.done := rfl
@[simp] theorem idxOne_fault (s : State) : (s.idxOne).fault = s.fault := rfl
@[simp] theorem idxOne_fcode (s : State) : (s.idxOne).fcode = s.fcode := rfl
@[simp] theorem idxOne_out (s : State) : (s.idxOne).out = s.out := rfl
@[simp] theorem idxOne_ticks (s : State) : (s.idxOne).ticks = s.ticks := rfl
@[simp] theorem idxOne_prog (s : State) : (s.idxOne).prog = s.prog := rfl
@[simp] theorem idxOne_name (s : State) : (s.idxOne).name = s.name := rfl
@[simp] theorem idxOne_sinkRoom (s : State) : (s.idxOne).sinkRoom = s.sinkRoom := rfl
@[simp] theorem idxOne_inbox (s : State) : (s.idxOne).inbox = s.inbox := rfl

@[simp] theorem raise_cksum (c : BitVec 2) (s : State) : (State.raise c s).cksum = s.cksum := rfl
@[simp] theorem raise_mode (c : BitVec 2) (s : State) : (State.raise c s).mode = s.mode := rfl
@[simp] theorem raise_startAddr (c : BitVec 2) (s : State) : (State.raise c s).startAddr = s.startAddr := rfl
@[simp] theorem raise_progLen (c : BitVec 2) (s : State) : (State.raise c s).progLen = s.progLen := rfl
@[simp] theorem raise_nameLen (c : BitVec 2) (s : State) : (State.raise c s).nameLen = s.nameLen := rfl
@[simp] theorem raise_stepNo (c : BitVec 2) (s : State) : (State.raise c s).stepNo = s.stepNo := rfl
@[simp] theorem raise_idx (c : BitVec 2) (s : State) : (State.raise c s).idx = s.idx := rfl
@[simp] theorem raise_busy (c : BitVec 2) (s : State) : (State.raise c s).busy = false := rfl
@[simp] theorem raise_done (c : BitVec 2) (s : State) : (State.raise c s).done = s.done := rfl
@[simp] theorem raise_fault (c : BitVec 2) (s : State) : (State.raise c s).fault = true := rfl
@[simp] theorem raise_fcode (c : BitVec 2) (s : State) : (State.raise c s).fcode = c := rfl
@[simp] theorem raise_out (c : BitVec 2) (s : State) : (State.raise c s).out = s.out := rfl
@[simp] theorem raise_ticks (c : BitVec 2) (s : State) : (State.raise c s).ticks = s.ticks := rfl
@[simp] theorem raise_prog (c : BitVec 2) (s : State) : (State.raise c s).prog = s.prog := rfl
@[simp] theorem raise_name (c : BitVec 2) (s : State) : (State.raise c s).name = s.name := rfl
@[simp] theorem raise_sinkRoom (c : BitVec 2) (s : State) : (State.raise c s).sinkRoom = s.sinkRoom := rfl
@[simp] theorem raise_inbox (c : BitVec 2) (s : State) : (State.raise c s).inbox = s.inbox := rfl

@[simp] theorem flagsStarted_cksum (s : State) : (s.flagsStarted).cksum = s.cksum := rfl
@[simp] theorem flagsStarted_mode (s : State) : (s.flagsStarted).mode = s.mode := rfl
@[simp] theorem flagsStarted_startAddr (s : State) : (s.flagsStarted).startAddr = s.startAddr := rfl
@[simp] theorem flagsStarted_progLen (s : State) : (s.flagsStarted).progLen = s.progLen := rfl
@[simp] theorem flagsStarted_nameLen (s : State) : (s.flagsStarted).nameLen = s.nameLen := rfl
@[simp] theorem flagsStarted_stepNo (s : State) : (s.flagsStarted).stepNo = s.stepNo := rfl
@[simp] theorem flagsStarted_idx (s : State) : (s.flagsStarted).idx = s.idx := rfl
@[simp] theorem flagsStarted_busy (s : State) : (s.flagsStarted).busy = true := rfl
@[simp] theorem flagsStarted_done (s : State) : (s.flagsStarted).done = false := rfl
@[simp] theorem flagsStarted_fault (s : State) : (s.flagsStarted).fault = s.fault := rfl
@[simp] theorem flagsStarted_fcode (s : State) : (s.flagsStarted).fcode = s.fcode := rfl
@[simp] theorem flagsStarted_out (s : State) : (s.flagsStarted).out = s.out := rfl
@[simp] theorem flagsStarted_ticks (s : State) : (s.flagsStarted).ticks = s.ticks := rfl
@[simp] theorem flagsStarted_prog (s : State) : (s.flagsStarted).prog = s.prog := rfl
@[simp] theorem flagsStarted_name (s : State) : (s.flagsStarted).name = s.name := rfl
@[simp] theorem flagsStarted_sinkRoom (s : State) : (s.flagsStarted).sinkRoom = s.sinkRoom := rfl
@[simp] theorem flagsStarted_inbox (s : State) : (s.flagsStarted).inbox = s.inbox := rfl

@[simp] theorem flagsFinished_cksum (s : State) : (s.flagsFinished).cksum = s.cksum := rfl
@[simp] theorem flagsFinished_mode (s : State) : (s.flagsFinished).mode = s.mode := rfl
@[simp] theorem flagsFinished_startAddr (s : State) : (s.flagsFinished).startAddr = s.startAddr := rfl
@[simp] theorem flagsFinished_progLen (s : State) : (s.flagsFinished).progLen = s.progLen := rfl
@[simp] theorem flagsFinished_nameLen (s : State) : (s.flagsFinished).nameLen = s.nameLen := rfl
@[simp] theorem flagsFinished_stepNo (s : State) : (s.flagsFinished).stepNo = s.stepNo := rfl
@[simp] theorem flagsFinished_idx (s : State) : (s.flagsFinished).idx = s.idx := rfl
@[simp] theorem flagsFinished_busy (s : State) : (s.flagsFinished).busy = false := rfl
@[simp] theorem flagsFinished_done (s : State) : (s.flagsFinished).done = true := rfl
@[simp] theorem flagsFinished_fault (s : State) : (s.flagsFinished).fault = s.fault := rfl
@[simp] theorem flagsFinished_fcode (s : State) : (s.flagsFinished).fcode = s.fcode := rfl
@[simp] theorem flagsFinished_out (s : State) : (s.flagsFinished).out = s.out := rfl
@[simp] theorem flagsFinished_ticks (s : State) : (s.flagsFinished).ticks = s.ticks := rfl
@[simp] theorem flagsFinished_prog (s : State) : (s.flagsFinished).prog = s.prog := rfl
@[simp] theorem flagsFinished_name (s : State) : (s.flagsFinished).name = s.name := rfl
@[simp] theorem flagsFinished_sinkRoom (s : State) : (s.flagsFinished).sinkRoom = s.sinkRoom := rfl
@[simp] theorem flagsFinished_inbox (s : State) : (s.flagsFinished).inbox = s.inbox := rfl

@[simp] theorem addCksum_cksum (b : Byte) (s : State) : (State.addCksum b s).cksum = s.cksum + b := rfl
@[simp] theorem addCksum_mode (b : Byte) (s : State) : (State.addCksum b s).mode = s.mode := rfl
@[simp] theorem addCksum_startAddr (b : Byte) (s : State) : (State.addCksum b s).startAddr = s.startAddr := rfl
@[simp] theorem addCksum_progLen (b : Byte) (s : State) : (State.addCksum b s).progLen = s.progLen := rfl
@[simp] theorem addCksum_nameLen (b : Byte) (s : State) : (State.addCksum b s).nameLen = s.nameLen := rfl
@[simp] theorem addCksum_stepNo (b : Byte) (s : State) : (State.addCksum b s).stepNo = s.stepNo := rfl
@[simp] theorem addCksum_idx (b : Byte) (s : State) : (State.addCksum b s).idx = s.idx := rfl
@[simp] theorem addCksum_busy (b : Byte) (s : State) : (State.addCksum b s).busy = s.busy := rfl
@[simp] theorem addCksum_done (b : Byte) (s : State) : (State.addCksum b s).done = s.done := rfl
@[simp] theorem addCksum_fault (b : Byte) (s : State) : (State.addCksum b s).fault = s.fault := rfl
@[simp] theorem addCksum_fcode (b : Byte) (s : State) : (State.addCksum b s).fcode = s.fcode := rfl
@[simp] theorem addCksum_out (b : Byte) (s : State) : (State.addCksum b s).out = s.out := rfl
@[simp] theorem addCksum_ticks (b : Byte) (s : State) : (State.addCksum b s).ticks = s.ticks := rfl
@[simp] theorem addCksum_prog (b : Byte) (s : State) : (State.addCksum b s).prog = s.prog := rfl
@[simp] theorem addCksum_name (b : Byte) (s : State) : (State.addCksum b s).name = s.name := rfl
@[simp] theorem addCksum_sinkRoom (b : Byte) (s : State) : (State.addCksum b s).sinkRoom = s.sinkRoom := rfl
@[simp] theorem addCksum_inbox (b : Byte) (s : State) : (State.addCksum b s).inbox = s.inbox := rfl

@[simp] theorem clearCksum_cksum (s : State) : (s.clearCksum).cksum = 0 := rfl
@[simp] theorem clearCksum_mode (s : State) : (s.clearCksum).mode = s.mode := rfl
@[simp] theorem clearCksum_startAddr (s : State) : (s.clearCksum).startAddr = s.startAddr := rfl
@[simp] theorem clearCksum_progLen (s : State) : (s.clearCksum).progLen = s.progLen := rfl
@[simp] theorem clearCksum_nameLen (s : State) : (s.clearCksum).nameLen = s.nameLen := rfl
@[simp] theorem clearCksum_stepNo (s : State) : (s.clearCksum).stepNo = s.stepNo := rfl
@[simp] theorem clearCksum_idx (s : State) : (s.clearCksum).idx = s.idx := rfl
@[simp] theorem clearCksum_busy (s : State) : (s.clearCksum).busy = s.busy := rfl
@[simp] theorem clearCksum_done (s : State) : (s.clearCksum).done = s.done := rfl
@[simp] theorem clearCksum_fault (s : State) : (s.clearCksum).fault = s.fault := rfl
@[simp] theorem clearCksum_fcode (s : State) : (s.clearCksum).fcode = s.fcode := rfl
@[simp] theorem clearCksum_out (s : State) : (s.clearCksum).out = s.out := rfl
@[simp] theorem clearCksum_ticks (s : State) : (s.clearCksum).ticks = s.ticks := rfl
@[simp] theorem clearCksum_prog (s : State) : (s.clearCksum).prog = s.prog := rfl
@[simp] theorem clearCksum_name (s : State) : (s.clearCksum).name = s.name := rfl
@[simp] theorem clearCksum_sinkRoom (s : State) : (s.clearCksum).sinkRoom = s.sinkRoom := rfl
@[simp] theorem clearCksum_inbox (s : State) : (s.clearCksum).inbox = s.inbox := rfl

@[simp] theorem resetCore_cksum (s : State) : (s.resetCore).cksum = 0 := rfl
@[simp] theorem resetCore_mode (s : State) : (s.resetCore).mode = .machineCode := rfl
@[simp] theorem resetCore_startAddr (s : State) : (s.resetCore).startAddr = 0 := rfl
@[simp] theorem resetCore_progLen (s : State) : (s.resetCore).progLen = 0 := rfl
@[simp] theorem resetCore_nameLen (s : State) : (s.resetCore).nameLen = 0 := rfl
@[simp] theorem resetCore_stepNo (s : State) : (s.resetCore).stepNo = 0 := rfl
@[simp] theorem resetCore_idx (s : State) : (s.resetCore).idx = 0 := rfl
@[simp] theorem resetCore_busy (s : State) : (s.resetCore).busy = false := rfl
@[simp] theorem resetCore_done (s : State) : (s.resetCore).done = false := rfl
@[simp] theorem resetCore_fault (s : State) : (s.resetCore).fault = false := rfl
@[simp] theorem resetCore_fcode (s : State) : (s.resetCore).fcode = 0 := rfl
@[simp] theorem resetCore_out (s : State) : (s.resetCore).out = [] := rfl
@[simp] theorem resetCore_ticks (s : State) : (s.resetCore).ticks = Ticks.zero := rfl
@[simp] theorem resetCore_prog (s : State) : (s.resetCore).prog = s.prog := rfl
@[simp] theorem resetCore_name (s : State) : (s.resetCore).name = s.name := rfl
@[simp] theorem resetCore_sinkRoom (s : State) : (s.resetCore).sinkRoom = s.sinkRoom := rfl
@[simp] theorem resetCore_inbox (s : State) : (s.resetCore).inbox = s.inbox := rfl

@[simp] theorem afterSamples_cksum (xs : List Sample) (s : State) : (State.afterSamples xs s).cksum = s.cksum := rfl
@[simp] theorem afterSamples_mode (xs : List Sample) (s : State) : (State.afterSamples xs s).mode = s.mode := rfl
@[simp] theorem afterSamples_startAddr (xs : List Sample) (s : State) : (State.afterSamples xs s).startAddr = s.startAddr := rfl
@[simp] theorem afterSamples_progLen (xs : List Sample) (s : State) : (State.afterSamples xs s).progLen = s.progLen := rfl
@[simp] theorem afterSamples_nameLen (xs : List Sample) (s : State) : (State.afterSamples xs s).nameLen = s.nameLen := rfl
@[simp] theorem afterSamples_stepNo (xs : List Sample) (s : State) : (State.afterSamples xs s).stepNo = s.stepNo := rfl
@[simp] theorem afterSamples_idx (xs : List Sample) (s : State) : (State.afterSamples xs s).idx = s.idx := rfl
@[simp] theorem afterSamples_busy (xs : List Sample) (s : State) : (State.afterSamples xs s).busy = s.busy := rfl
@[simp] theorem afterSamples_done (xs : List Sample) (s : State) : (State.afterSamples xs s).done = s.done := rfl
@[simp] theorem afterSamples_fault (xs : List Sample) (s : State) : (State.afterSamples xs s).fault = s.fault := rfl
@[simp] theorem afterSamples_fcode (xs : List Sample) (s : State) : (State.afterSamples xs s).fcode = s.fcode := rfl
@[simp] theorem afterSamples_out (xs : List Sample) (s : State) : (State.afterSamples xs s).out = s.out ++ xs := rfl
@[simp] theorem afterSamples_ticks (xs : List Sample) (s : State) : (State.afterSamples xs s).ticks = s.ticks := rfl
@[simp] theorem afterSamples_prog (xs : List Sample) (s : State) : (State.afterSamples xs s).prog = s.prog := rfl
@[simp] theorem afterSamples_name (xs : List Sample) (s : State) : (State.afterSamples xs s).name = s.name := rfl
@[simp] theorem afterSamples_sinkRoom (xs : List Sample) (s : State) : (State.afterSamples xs s).sinkRoom = s.sinkRoom.map (fun k => k - xs.length) := rfl
@[simp] theorem afterSamples_inbox (xs : List Sample) (s : State) : (State.afterSamples xs s).inbox = s.inbox := rfl

@[simp] theorem unwritable_cksum (xs : List Sample) (k : Nat) (r : Ticks) (s : State) :
    (State.unwritable xs k r s).cksum = s.cksum := rfl
@[simp] theorem unwritable_mode (xs : List Sample) (k : Nat) (r : Ticks) (s : State) :
    (State.unwritable xs k r s).mode = s.mode := rfl
@[simp] theorem unwritable_startAddr (xs : List Sample) (k : Nat) (r : Ticks) (s : State) :
    (State.unwritable xs k r s).startAddr = s.startAddr := rfl
@[simp] theorem unwritable_progLen (xs : List Sample) (k : Nat) (r : Ticks) (s : State) :
    (State.unwritable xs k r s).progLen = s.progLen := rfl
@[simp] theorem unwritable_nameLen (xs : List Sample) (k : Nat) (r : Ticks) (s : State) :
    (State.unwritable xs k r s).nameLen = s.nameLen := rfl
@[simp] theorem unwritable_stepNo (xs : List Sample) (k : Nat) (r : Ticks) (s : State) :
    (State.unwritable xs k r s).stepNo = s.stepNo := rfl
@[simp] theorem unwritable_idx (xs : List Sample) (k : Nat) (r : Ticks) (s : State) :
    (State.unwritable xs k r s).idx = s.idx := rfl
@[simp] theorem unwritable_busy (xs : List Sample) (k : Nat) (r : Ticks) (s : State) :
    (State.unwritable xs k r s).busy = false := rfl
@[simp] theorem unwritable_done (xs : List Sample) (k : Nat) (r : Ticks) (s : State) :
    (State.unwritable xs k r s).done = s.done := rfl
@[simp] theorem unwritable_fault (xs : List Sample) (k : Nat) (r : Ticks) (s : State) :
    (State.unwritable xs k r s).fault = true := rfl
@[simp] theorem unwritable_fcode (xs : List Sample) (k : Nat) (r : Ticks) (s : State) :
    (State.unwritable xs k r s).fcode = 2 := rfl
@[simp] theorem unwritable_out (xs : List Sample) (k : Nat) (r : Ticks) (s : State) :
    (State.unwritable xs k r s).out = s.out ++ xs.take k := rfl
@[simp] theorem unwritable_ticks (xs : List Sample) (k : Nat) (r : Ticks) (s : State) :
    (State.unwritable xs k r s).ticks = r := rfl
@[simp] theorem unwritable_prog (xs : List Sample) (k : Nat) (r : Ticks) (s : State) :
    (State.unwritable xs k r s).prog = s.prog := rfl
@[simp] theorem unwritable_name (xs : List Sample) (k : Nat) (r : Ticks) (s : State) :
    (State.unwritable xs k r s).name = s.name := rfl
@[simp] theorem unwritable_sinkRoom (xs : List Sample) (k : Nat) (r : Ticks) (s : State) :
    (State.unwritable xs k r s).sinkRoom = some 0 := rfl
@[simp] theorem unwritable_inbox (xs : List Sample) (k : Nat) (r : Ticks) (s : State) :
    (State.unwritable xs k r s).inbox = s.inbox := rfl

end Sys2Proof.Machine.State
end

