-- ==== Sys2Proof/Laws/Ops.lean ====
section
/-! SUPPORT. What each shared operation can do, said once: an emission ends with all its samples or with
OutputUnwritable, and a primitive of the engine or of a command ends in the matching next state. -/

namespace Sys2Proof.Machine

/-- A sink that takes `n` samples stops no emission of `n` samples. -/
theorem sinkStopsAt_of_takes {n : Nat} {s : State} (h : SinkTakes n s) : s.sinkStopsAt n = none := by
  unfold State.sinkStopsAt
  split
  · rename_i hb
    split
    · rename_i k hk
      have := h hb k hk
      simp; omega
    · rfl
  · rfl

/-- Where the sink's room is short, the emission stops there. -/
theorem sinkStopsAt_of_short {n k : Nat} {s : State} (hb : s.busy = true) (hk : s.sinkRoom = some k)
    (h : k < n) : s.sinkStopsAt n = some k := by
  simp [State.sinkStopsAt, hb, hk, h]

/-- Either the sink takes them all, or it stops at a sample while BUSY = 1. -/
theorem sinkStopsAt_cases (n : Nat) (s : State) :
    (s.sinkStopsAt n = none ∧ SinkTakes n s) ∨
    ∃ k, s.sinkStopsAt n = some k ∧ s.busy = true ∧ s.sinkRoom = some k ∧ k < n := by
  by_cases hb : s.busy = true
  · cases hk : s.sinkRoom with
    | none => left; simp [State.sinkStopsAt, hb, hk, SinkTakes]
    | some k =>
      by_cases hlt : k < n
      · right; exact ⟨k, sinkStopsAt_of_short hb hk hlt, hb, rfl, hlt⟩
      · left
        refine ⟨by simp [State.sinkStopsAt, hb, hk, hlt], fun _ k' h' => ?_⟩
        rw [hk] at h'; cases h'; omega
  · left; simp [State.sinkStopsAt, hb, SinkTakes]

/-- All samples out. -/
theorem emitAll_of_takes {xs : List Sample} {f : Nat → Ticks} {s : State} (h : SinkTakes xs.length s) :
    emitAll xs f s = .finished (s.afterSamples xs) := by
  simp [emitAll, sinkStopsAt_of_takes h, State.afterSamples]

/-- The sink fails before sample `k`. -/
theorem emitAll_of_short {xs : List Sample} {f : Nat → Ticks} {s : State} {k : Nat}
    (hb : s.busy = true) (hk : s.sinkRoom = some k) (h : k < xs.length) :
    emitAll xs f s = .failed (s.unwritable xs k (f k)) := by
  simp [emitAll, sinkStopsAt_of_short hb hk h, State.unwritable, State.raise, Config.fcodeOutputUnwritable]

/-- A primitive runs to its end, then what follows it. -/
theorem issue_of_takes {p : Prim} {after : State → State} {s : State} (ha : p.admitted = true)
    (h : SinkTakes p.samples.length s) :
    issue p after s = .next (after (p.commit (s.afterSamples p.samples))) := by
  simp [issue, ha, emitAll_of_takes h]

/-- A primitive is cut short by the sink, and what follows it does not happen (R204). -/
theorem issue_of_short {p : Prim} {after : State → State} {s : State} {k : Nat} (ha : p.admitted = true)
    (hb : s.busy = true) (hk : s.sinkRoom = some k) (h : k < p.samples.length) :
    issue p after s = .next (s.unwritable p.samples k (p.frozen k)) := by
  simp [issue, ha, emitAll_of_short hb hk h]

/-- Everything a primitive can do, if it answers a next state. -/
theorem issue_cases {p : Prim} {after : State → State} {s t : State} (h : issue p after s = .next t) :
    p.admitted = true ∧
    ((SinkTakes p.samples.length s ∧ t = after (p.commit (s.afterSamples p.samples))) ∨
     ∃ k, s.busy = true ∧ s.sinkRoom = some k ∧ k < p.samples.length ∧
       t = s.unwritable p.samples k (p.frozen k)) := by
  by_cases ha : p.admitted = true
  · refine ⟨ha, ?_⟩
    rcases sinkStopsAt_cases p.samples.length s with ⟨-, hT⟩ | ⟨k, -, hb, hk, hlt⟩
    · rw [issue_of_takes ha hT] at h; cases h; exact .inl ⟨hT, rfl⟩
    · rw [issue_of_short ha hb hk hlt] at h; cases h; exact .inr ⟨k, hb, hk, hlt, rfl⟩
  · simp [issue, ha] at h

/-- A wire pattern runs to its end. -/
theorem emitOnly_of_takes {p : Prim} {s : State} (h : SinkTakes p.samples.length s) :
    emitOnly p s = .next (s.afterSamples p.samples) := by
  simp [emitOnly, emitAll_of_takes h]

/-- A wire pattern is cut short by the sink. -/
theorem emitOnly_of_short {p : Prim} {s : State} {k : Nat}
    (hb : s.busy = true) (hk : s.sinkRoom = some k) (h : k < p.samples.length) :
    emitOnly p s = .next (s.unwritable p.samples k (p.frozen k)) := by
  simp [emitOnly, emitAll_of_short hb hk h]

/-- Everything a wire pattern can do. -/
theorem emitOnly_cases {p : Prim} {s t : State} (h : emitOnly p s = .next t) :
    (SinkTakes p.samples.length s ∧ t = s.afterSamples p.samples) ∨
    ∃ k, s.busy = true ∧ s.sinkRoom = some k ∧ k < p.samples.length ∧
      t = s.unwritable p.samples k (p.frozen k) := by
  rcases sinkStopsAt_cases p.samples.length s with ⟨-, hT⟩ | ⟨k, -, hb, hk, hlt⟩
  · rw [emitOnly_of_takes hT] at h; cases h; exact .inl ⟨hT, rfl⟩
  · rw [emitOnly_of_short hb hk hlt] at h; cases h; exact .inr ⟨k, hb, hk, hlt, rfl⟩

/-- A step of the engine with its operand at hand issues its primitive. -/
theorem issueStep_of_ok {prim : State → Except Refusal Prim} {after : State → State} {s : State} {p : Prim}
    (h : prim s = .ok p) : issueStep prim after s = issue p after s := by
  simp [issueStep, h]

/-- Everything a step of the engine can do. -/
theorem issueStep_cases {prim : State → Except Refusal Prim} {after : State → State} {s t : State}
    (h : issueStep prim after s = .next t) :
    ∃ p, prim s = .ok p ∧ p.admitted = true ∧
    ((SinkTakes p.samples.length s ∧ t = after (p.commit (s.afterSamples p.samples))) ∨
     ∃ k, s.busy = true ∧ s.sinkRoom = some k ∧ k < p.samples.length ∧
       t = s.unwritable p.samples k (p.frozen k)) := by
  unfold issueStep at h
  split at h
  · rename_i p hp; exact ⟨p, hp, issue_cases h⟩
  · cases h

/-- Step 4's operand where it is readable is the name field's byte (R160). -/
theorem nameByte_of_readable {s : State} (h : NameReadable s) :
    nameByte s = .ok (nameFieldByte s s.idx.toNat) := by
  unfold nameByte nameFieldByte
  split
  · rename_i hlt
    obtain ⟨h16, hs⟩ := h hlt
    obtain ⟨b, hb⟩ := Option.isSome_iff_exists.1 hs
    simp [Config.nameFieldLen, h16, hb]
  · rfl

/-- Step 4's operand is there only where it is readable. -/
theorem readable_of_nameByte {s : State} {b : Byte} (h : nameByte s = .ok b) :
    NameReadable s ∧ b = nameFieldByte s s.idx.toNat := by
  have hr : NameReadable s := by
    intro hlt
    unfold nameByte at h
    simp only [hlt, if_true] at h
    split at h
    · rename_i h16
      refine ⟨h16, ?_⟩
      split at h
      · rename_i b' hb; simp [hb]
      · cases h
    · cases h
  refine ⟨hr, ?_⟩
  rw [nameByte_of_readable hr] at h
  cases h; rfl

/-- Step 4's primitive where its byte is readable. -/
theorem s4Prim_of_readable {s : State} (h : NameReadable s) :
    s4Prim s = .ok (.byte (nameFieldByte s s.idx.toNat)) := by
  rw [s4Prim, nameByte_of_readable h]; rfl

/-- Step 12's operand where it is readable. -/
theorem progByte_of_readable {s : State} (h : DataReadable s) :
    progByte s = .ok ((Memory.read s.prog s.idx.toNat).getD 0) := by
  obtain ⟨hlt, hs⟩ := h
  obtain ⟨b, hb⟩ := Option.isSome_iff_exists.1 hs
  simp [progByte, hlt, hb]

/-- Step 12's primitive where its byte is readable. -/
theorem s12Prim_of_readable {s : State} (h : DataReadable s) :
    s12Prim s = .ok (.byte ((Memory.read s.prog s.idx.toNat).getD 0)) := by
  rw [s12Prim, progByte_of_readable h]; rfl

/-- Step 12's operand is there only where it is readable. -/
theorem readable_of_progByte {s : State} {b : Byte} (h : progByte s = .ok b) :
    DataReadable s ∧ b = (Memory.read s.prog s.idx.toNat).getD 0 := by
  unfold progByte at h
  split at h
  · rename_i hlt
    split at h
    · rename_i b' hb; cases h; exact ⟨⟨hlt, by simp [hb]⟩, by simp [hb]⟩
    · cases h
  · cases h

end Sys2Proof.Machine
end

