-- ==== Sys2Proof/Laws/Exec.lean ====
section
/-! SUPPORT. What `exec` can do, said once: START and IDLE apart, an instruction issues the primitive of
`issuedPrim` and either settles its register writes or takes OutputUnwritable. -/

namespace Sys2Proof.Machine

/-! ### What each step writes after its primitive -/

@[simp] theorem Prim.commit_bit (v : Bool) (s : State) : (Prim.bit v).commit s = s := rfl
@[simp] theorem Prim.commit_byte (b : Byte) (s : State) : (Prim.byte b).commit s = s.addCksum b := rfl
@[simp] theorem Prim.commit_silence (ms : BitVec 32) (s : State) : (Prim.silence ms).commit s = s := rfl

@[simp] theorem s1After_cksum (s : State) : (s1After s).cksum = s.cksum := rfl
@[simp] theorem s2After_cksum (s : State) : (s2After s).cksum = s.cksum := by
  unfold s2After; split <;> rfl
@[simp] theorem s3After_cksum (s : State) : (s3After s).cksum = 0 := rfl
@[simp] theorem s4After_cksum (s : State) : (s4After s).cksum = s.cksum := by
  unfold s4After; split <;> rfl
@[simp] theorem s5After_cksum (s : State) : (s5After s).cksum = s.cksum := by
  unfold s5After; split <;> rfl
@[simp] theorem s6After_cksum (s : State) : (s6After s).cksum = s.cksum := by
  unfold s6After; split <;> rfl
@[simp] theorem s7After_cksum (s : State) : (s7After s).cksum = s.cksum := rfl
@[simp] theorem s8After_cksum (s : State) : (s8After s).cksum = s.cksum := by
  unfold s8After; split <;> rfl
@[simp] theorem s9After_cksum (s : State) : (s9After s).cksum = s.cksum := rfl
@[simp] theorem s10After_cksum (s : State) : (s10After s).cksum = s.cksum := by
  unfold s10After; split <;> rfl
@[simp] theorem s11After_cksum (s : State) : (s11After s).cksum = 0 := rfl
@[simp] theorem s12After_cksum (s : State) : (s12After s).cksum = s.cksum := by
  unfold s12After; split <;> rfl
@[simp] theorem s13After_cksum (s : State) : (s13After s).cksum = s.cksum := rfl
@[simp] theorem s14After_cksum (s : State) : (s14After s).cksum = s.cksum := by
  unfold s14After; split <;> rfl
@[simp] theorem s15After_cksum (s : State) : (s15After s).cksum = s.cksum := rfl

theorem s1After_position (s : State) :
    ((s1After s).stepNo, (s1After s).idx) = (2, 0) := rfl
theorem s2After_position (s : State) : ((s2After s).stepNo, (s2After s).idx) =
    if s.idx = leaderLast then (3, 0) else (s.stepNo, s.idx + 1) := by
  unfold s2After; split <;> rfl
theorem s3After_position (s : State) :
    ((s3After s).stepNo, (s3After s).idx) = (4, 0) := rfl
theorem s4After_position (s : State) : ((s4After s).stepNo, (s4After s).idx) =
    if s.idx = nameLast then (5, 0) else (s.stepNo, s.idx + 1) := by
  unfold s4After; split <;> rfl
theorem s5After_position (s : State) : ((s5After s).stepNo, (s5After s).idx) =
    if s.idx = 1 then (afterLength s.mode, 0) else (s.stepNo, 1) := by
  unfold s5After; split <;> rfl
theorem s6After_position (s : State) : ((s6After s).stepNo, (s6After s).idx) =
    if s.idx = 1 then (7, 0) else (s.stepNo, 1) := by
  unfold s6After; split <;> rfl
theorem s7After_position (s : State) :
    ((s7After s).stepNo, (s7After s).idx) = (8, 0) := rfl
theorem s8After_position (s : State) : ((s8After s).stepNo, (s8After s).idx) =
    if s.idx = 1 then (9, 0) else (s.stepNo, 1) := by
  unfold s8After; split <;> rfl
theorem s9After_position (s : State) :
    ((s9After s).stepNo, (s9After s).idx) = (10, 0) := rfl
theorem s10After_position (s : State) : ((s10After s).stepNo, (s10After s).idx) =
    if s.idx = leaderLast then (11, 0) else (s.stepNo, s.idx + 1) := by
  unfold s10After; split <;> rfl
theorem s11After_position (s : State) :
    ((s11After s).stepNo, (s11After s).idx) = (if s.progLen = 0 then 13 else 12, 0) := rfl
theorem s12After_position (s : State) : ((s12After s).stepNo, (s12After s).idx) =
    if s.idx = s.progLen - 1 then (13, 0) else (s.stepNo, s.idx + 1) := by
  unfold s12After; split <;> rfl
theorem s13After_position (s : State) :
    ((s13After s).stepNo, (s13After s).idx) = (14, 0) := rfl
theorem s14After_position (s : State) : ((s14After s).stepNo, (s14After s).idx) =
    if s.idx = 1 then (15, 0) else (s.stepNo, 1) := by
  unfold s14After; split <;> rfl
theorem s15After_position (s : State) :
    ((s15After s).stepNo, (s15After s).idx) = (0, 0) := rfl

/-- The register writes of an instruction once its samples are out. -/
def settle (i : Instr) (p : Prim) (t : State) : State :=
  match i with
  | .cell1 => t
  | .cell0 => t
  | .frame _ => t
  | .keyHeaderMc => (p.commit t).clearCksum
  | .keyDataMc => (p.commit t).clearCksum
  | .keyHeaderBasic => (p.commit t).clearCksum
  | .keyDataBasic => (p.commit t).clearCksum
  | .emitBit _ => p.commit t
  | .emitByte _ => p.commit t
  | .emitSilence _ => p.commit t
  | .modcmdReserved => t
  | .startMc => t
  | .startBasic => t
  | .idle => t
  | .s1SilIn => s1After (p.commit t)
  | .s2LdrH => s2After (p.commit t)
  | .s3KeyH => s3After (p.commit t)
  | .s4Name => s4After (p.commit t)
  | .s5Len => s5After (p.commit t)
  | .s6Addr => s6After (p.commit t)
  | .s7CksH => s7After (p.commit t)
  | .s8DumH => s8After (p.commit t)
  | .s9SilGap => s9After (p.commit t)
  | .s10LdrD => s10After (p.commit t)
  | .s11KeyD => s11After (p.commit t)
  | .s12Data => s12After (p.commit t)
  | .s13CksD => s13After (p.commit t)
  | .s14DumD => s14After (p.commit t)
  | .s15SilOut => s15After (p.commit t)

/-- The register writes of an instruction leave OUT, the parameters, the host's memories, the sink, the inputs, the
refinement registers and the fault as they are. -/
theorem settle_keeps (i : Instr) (p : Prim) (t : State) :
    (settle i p t).out = t.out ∧ (settle i p t).mode = t.mode ∧
    (settle i p t).startAddr = t.startAddr ∧ (settle i p t).progLen = t.progLen ∧
    (settle i p t).nameLen = t.nameLen ∧ (settle i p t).prog = t.prog ∧ (settle i p t).name = t.name ∧
    (settle i p t).sinkRoom = t.sinkRoom ∧ (settle i p t).inbox = t.inbox ∧
    (settle i p t).ticks = t.ticks ∧ (settle i p t).fault = t.fault ∧ (settle i p t).fcode = t.fcode := by
  cases i <;> cases p <;>
    first
      | exact ⟨rfl, rfl, rfl, rfl, rfl, rfl, rfl, rfl, rfl, rfl, rfl, rfl⟩
      | (simp only [settle, s2After, s4After, s5After, s6After, s8After, s10After, s12After, s14After]
         split <;> exact ⟨rfl, rfl, rfl, rfl, rfl, rfl, rfl, rfl, rfl, rfl, rfl, rfl⟩)

/-- Step 15 apart, they leave BUSY and DONE. -/
theorem settle_flags {i : Instr} (h : i ≠ .s15SilOut) (p : Prim) (t : State) :
    (settle i p t).busy = t.busy ∧ (settle i p t).done = t.done := by
  cases i <;> cases p <;>
    first
      | exact ⟨rfl, rfl⟩
      | exact absurd rfl h
      | (simp only [settle, s2After, s4After, s5After, s6After, s8After, s10After, s12After, s14After]
         split <;> exact ⟨rfl, rfl⟩)

/-- The key-code by mode, as R144 and R152 write it. -/
theorem headerKey_eq (m : TapeMode) : headerKey m = if m = .machineCode then 0x26 else 0x16 := by
  cases m <;> rfl

theorem dataKey_eq (m : TapeMode) : dataKey m = if m = .machineCode then 0x27 else 0x17 := by
  cases m <;> rfl

/-- An instruction whose primitive fits the sink completes. -/
theorem exec_of_takes {i : Instr} {s : State} {p : Prim} (hp : issuedPrim i s = some p)
    (h : SinkTakes p.samples.length s) : exec i s = .next (settle i p (s.afterSamples p.samples)) := by
  cases i <;> simp only [issuedPrim, reduceCtorEq, Option.some.injEq, Option.ite_none_right_eq_some] at hp
  case emitSilence ms =>
    obtain ⟨hms, rfl⟩ := hp
    exact issue_of_takes ((Prim.admitted_silence_iff ms).2 hms) h
  case s4Name =>
    obtain ⟨hr, rfl⟩ := hp
    exact (issueStep_of_ok (s4Prim_of_readable hr)).trans (issue_of_takes rfl h)
  case s12Data =>
    obtain ⟨hr, rfl⟩ := hp
    exact (issueStep_of_ok (s12Prim_of_readable hr)).trans (issue_of_takes rfl h)
  case s3KeyH =>
    rw [← headerKey_eq] at hp
    subst hp; exact issue_of_takes rfl h
  case s11KeyD =>
    rw [← dataKey_eq] at hp
    subst hp; exact issue_of_takes rfl h
  all_goals subst hp
  all_goals first
    | exact emitOnly_of_takes h
    | exact issue_of_takes (after := id) rfl h
    | exact issue_of_takes (after := State.clearCksum) rfl h
    | exact issue_of_takes rfl h

/-- An instruction whose primitive the sink cuts short takes OutputUnwritable. -/
theorem exec_of_short {i : Instr} {s : State} {p : Prim} {k : Nat} (hp : issuedPrim i s = some p)
    (hb : s.busy = true) (hk : s.sinkRoom = some k) (h : k < p.samples.length) :
    exec i s = .next (s.unwritable p.samples k (p.frozen k)) := by
  cases i <;> simp only [issuedPrim, reduceCtorEq, Option.some.injEq, Option.ite_none_right_eq_some] at hp
  case emitSilence ms =>
    obtain ⟨hms, rfl⟩ := hp
    exact issue_of_short ((Prim.admitted_silence_iff ms).2 hms) hb hk h
  case s4Name =>
    obtain ⟨hr, rfl⟩ := hp
    exact (issueStep_of_ok (s4Prim_of_readable hr)).trans (issue_of_short rfl hb hk h)
  case s12Data =>
    obtain ⟨hr, rfl⟩ := hp
    exact (issueStep_of_ok (s12Prim_of_readable hr)).trans (issue_of_short rfl hb hk h)
  case s3KeyH =>
    rw [← headerKey_eq] at hp
    subst hp; exact issue_of_short rfl hb hk h
  case s11KeyD =>
    rw [← dataKey_eq] at hp
    subst hp; exact issue_of_short rfl hb hk h
  all_goals subst hp
  all_goals first
    | exact emitOnly_of_short hb hk h
    | exact issue_of_short rfl hb hk h

/-- Where an instruction other than START and IDLE answers a next state, its primitive was there. -/
theorem issuedPrim_of_next {i : Instr} {s t : State} (h : exec i s = .next t)
    (h1 : i ≠ .startMc) (h2 : i ≠ .startBasic) (h3 : i ≠ .idle) : ∃ p, issuedPrim i s = some p := by
  cases i <;> try (exact ⟨_, rfl⟩)
  case emitSilence ms =>
    exact ⟨.silence ms, if_pos ((Prim.admitted_silence_iff ms).1 (issue_cases h).1)⟩
  case modcmdReserved => cases h
  case startMc => exact absurd rfl h1
  case startBasic => exact absurd rfl h2
  case idle => exact absurd rfl h3
  case s4Name =>
    obtain ⟨p, hp, -⟩ := issueStep_cases h
    unfold s4Prim at hp
    cases hn : nameByte s with
    | error r => simp [hn, Except.map] at hp
    | ok b => exact ⟨_, by simp only [issuedPrim]; rw [if_pos (readable_of_nameByte hn).1]⟩
  case s12Data =>
    obtain ⟨p, hp, -⟩ := issueStep_cases h
    unfold s12Prim at hp
    cases hn : progByte s with
    | error r => simp [hn, Except.map] at hp
    | ok b => exact ⟨_, by simp only [issuedPrim]; rw [if_pos (readable_of_progByte hn).1]⟩

/-- Everything an instruction can do, if it answers a next state. -/
theorem exec_cases {i : Instr} {s t : State} (h : exec i s = .next t) :
    (i = .startMc ∧ startRun (writeMode .machineCode s) = .next t) ∨
    (i = .startBasic ∧ startRun (writeMode .basic s) = .next t) ∨
    (i = .idle ∧ t = s) ∨
    ∃ p, issuedPrim i s = some p ∧ i ≠ .startMc ∧ i ≠ .startBasic ∧ i ≠ .idle ∧
      ((SinkTakes p.samples.length s ∧ t = settle i p (s.afterSamples p.samples)) ∨
       ∃ k, s.busy = true ∧ s.sinkRoom = some k ∧ k < p.samples.length ∧
         t = s.unwritable p.samples k (p.frozen k)) := by
  by_cases h1 : i = .startMc
  · subst h1; exact .inl ⟨rfl, h⟩
  by_cases h2 : i = .startBasic
  · subst h2; exact .inr (.inl ⟨rfl, h⟩)
  by_cases h3 : i = .idle
  · subst h3; cases h; exact .inr (.inr (.inl ⟨rfl, rfl⟩))
  obtain ⟨p, hp⟩ := issuedPrim_of_next h h1 h2 h3
  refine .inr (.inr (.inr ⟨p, hp, h1, h2, h3, ?_⟩))
  rcases sinkStopsAt_cases p.samples.length s with ⟨-, hT⟩ | ⟨k, -, hb, hk, hlt⟩
  · rw [exec_of_takes hp hT] at h; cases h; exact .inl ⟨hT, rfl⟩
  · rw [exec_of_short hp hb hk hlt] at h; cases h; exact .inr ⟨k, hb, hk, hlt, rfl⟩

/-- START, where it is accepted, begins a run; where it is not, the state stays. -/
theorem startCommand_cases (s : State) :
    (s.busy = false ∧ s.fault = false ∧ s.mode = .machineCode ∧
      startCommand s = { s with done := false, out := [], busy := true, stepNo := 1, idx := 0 }) ∨
    (s.busy = false ∧ s.fault = false ∧ s.mode = .basic ∧
      startCommand s = { s with done := false, out := [], fault := true, fcode := 1, busy := false }) ∨
    ((s.busy = true ∨ s.fault = true) ∧ startCommand s = s) := by
  unfold startCommand State.acceptsStart
  cases hb : s.busy <;> cases hf : s.fault <;> cases hm : s.mode <;>
    simp [State.goto, State.flagsStarted, State.raise, Config.fcodeUnsupportedMode]

/-- Everything START can do, if it answers a next state: begin a run whose contract is kept, raise
UnsupportedMode, or nothing. -/
theorem startRun_cases {s t : State} (h : startRun s = .next t) :
    (s.busy = false ∧ s.fault = false ∧ s.mode = .machineCode ∧ Contract s ∧
      t = { s with done := false, out := [], busy := true, stepNo := 1, idx := 0 }) ∨
    (s.busy = false ∧ s.fault = false ∧ s.mode = .basic ∧
      t = { s with done := false, out := [], fault := true, fcode := 1, busy := false }) ∨
    ((s.busy = true ∨ s.fault = true) ∧ t = s) := by
  unfold startRun at h
  split at h
  · cases h
  · rename_i hc
    cases h
    rcases startCommand_cases s with ⟨h1, h2, h3, e⟩ | ⟨h1, h2, h3, e⟩ | ⟨h1, e⟩
    · refine .inl ⟨h1, h2, h3, Classical.byContradiction fun hn => hc ⟨?_, h3, hn⟩, e⟩
      simp [State.acceptsStart, h1, h2]
    · exact .inr (.inl ⟨h1, h2, h3, e⟩)
    · exact .inr (.inr ⟨h1, e⟩)

/-- A START that would begin a run with the contract broken is refused. -/
theorem startRun_of_broken {s : State} (hb : s.busy = false) (hf : s.fault = false) (hm : s.mode = .machineCode)
    (hc : ¬ Contract s) : startRun s = .refused .contractBroken :=
  if_pos ⟨by simp [State.acceptsStart, hb, hf], hm, hc⟩

/-- The contract backs every byte a run uses. -/
theorem Contract.backed {s : State} (h : Contract s) : Backed s :=
  ⟨fun i hi => (Memory.isSome_read_iff _ _).2 (by rw [h.1]; exact List.mem_range.2 hi), h.2⟩

end Sys2Proof.Machine
end

