-- ==== Sys2Proof/Laws/PerInstr.lean ====
section
/-! SUPPORT. Per-instruction facts: the word of an instruction stands at the interface of its row of
spec/opcode_table.json and has the row's fixed bits. -/

namespace Sys2Proof.Laws

/-- The fixed part of a row of the opcode table: its interface and its fixed bits. -/
inductive Row
  | cell (w : BitVec 16)
  /-- bit 10 is 0, bits 1 and 0 are 1 -/
  | frame
  | key (w : Byte)
  /-- bits 33:32 -/
  | modcmd (op : BitVec 2)
  | ctrl (w : BitVec 2)
  | step (w : BitVec 4)
deriving DecidableEq, Repr

/-- The row of an instruction, as the table's `match` and `encoding` columns write it. -/
def Row.of : Instr → Row
  | .cell1 => .cell 0xF0F0
  | .cell0 => .cell 0xFF00
  | .frame _ => .frame
  | .keyHeaderMc => .key 0x26
  | .keyDataMc => .key 0x27
  | .keyHeaderBasic => .key 0x16
  | .keyDataBasic => .key 0x17
  | .emitBit _ => .modcmd 0
  | .emitByte _ => .modcmd 1
  | .emitSilence _ => .modcmd 2
  | .modcmdReserved => .modcmd 3
  | .startMc => .ctrl 1
  | .startBasic => .ctrl 3
  | .idle => .step 0
  | .s1SilIn => .step 1
  | .s2LdrH => .step 2
  | .s3KeyH => .step 3
  | .s4Name => .step 4
  | .s5Len => .step 5
  | .s6Addr => .step 6
  | .s7CksH => .step 7
  | .s8DumH => .step 8
  | .s9SilGap => .step 9
  | .s10LdrD => .step 10
  | .s11KeyD => .step 11
  | .s12Data => .step 12
  | .s13CksD => .step 13
  | .s14DumD => .step 14
  | .s15SilOut => .step 15

/-- The word has the row's fixed bits. -/
def Row.Fits : Row → PortWord → Prop
  | .cell v, .cell w => w = v
  | .frame, .frame w => w.getLsbD 10 = false ∧ w.getLsbD 1 = true ∧ w.getLsbD 0 = true
  | .key v, .key w => w = v
  | .modcmd op, .modcmd w => w.extractLsb' 32 2 = op
  | .ctrl v, .ctrl w => w = v
  | .step v, .step w => w = v
  | _, _ => False

/-- The word of `i` fits the row of `i`. -/
def RowPattern.Statement (i : Instr) : Prop := (Row.of i).Fits (encode i)

/-- The upper two bits of a 34-bit word put together from its fields. -/
theorem extract_op (op : BitVec 2) (arg : BitVec 32) : (op ++ arg).extractLsb' 32 2 = op := by
  ext i hi
  simp only [BitVec.getElem_extractLsb', BitVec.getLsbD_append, show ¬ (32 + i < 32) by omega,
    if_false, Nat.add_sub_cancel_left]
  exact BitVec.getLsbD_eq_getElem hi

theorem RowPattern.cell1 : RowPattern.Statement .cell1 := rfl
theorem RowPattern.cell0 : RowPattern.Statement .cell0 := rfl
theorem RowPattern.frame (b : Byte) : RowPattern.Statement (.frame b) := by
  revert b
  show ∀ b, (frameWord b).getLsbD 10 = false ∧ (frameWord b).getLsbD 1 = true ∧ (frameWord b).getLsbD 0 = true
  decide
theorem RowPattern.keyHeaderMc : RowPattern.Statement .keyHeaderMc := rfl
theorem RowPattern.keyDataMc : RowPattern.Statement .keyDataMc := rfl
theorem RowPattern.keyHeaderBasic : RowPattern.Statement .keyHeaderBasic := rfl
theorem RowPattern.keyDataBasic : RowPattern.Statement .keyDataBasic := rfl
theorem RowPattern.emitBit (v : Bool) : RowPattern.Statement (.emitBit v) := by cases v <;> rfl
theorem RowPattern.emitByte (b : Byte) : RowPattern.Statement (.emitByte b) := by
  revert b
  show ∀ b : Byte, (1#2 ++ 0#24 ++ b).extractLsb' 32 2 = 1
  decide
theorem RowPattern.emitSilence (ms : BitVec 32) : RowPattern.Statement (.emitSilence ms) := extract_op 2 ms
theorem RowPattern.modcmdReserved : RowPattern.Statement .modcmdReserved := rfl
theorem RowPattern.startMc : RowPattern.Statement .startMc := rfl
theorem RowPattern.startBasic : RowPattern.Statement .startBasic := rfl
theorem RowPattern.idle : RowPattern.Statement .idle := rfl
theorem RowPattern.s1SilIn : RowPattern.Statement .s1SilIn := rfl
theorem RowPattern.s2LdrH : RowPattern.Statement .s2LdrH := rfl
theorem RowPattern.s3KeyH : RowPattern.Statement .s3KeyH := rfl
theorem RowPattern.s4Name : RowPattern.Statement .s4Name := rfl
theorem RowPattern.s5Len : RowPattern.Statement .s5Len := rfl
theorem RowPattern.s6Addr : RowPattern.Statement .s6Addr := rfl
theorem RowPattern.s7CksH : RowPattern.Statement .s7CksH := rfl
theorem RowPattern.s8DumH : RowPattern.Statement .s8DumH := rfl
theorem RowPattern.s9SilGap : RowPattern.Statement .s9SilGap := rfl
theorem RowPattern.s10LdrD : RowPattern.Statement .s10LdrD := rfl
theorem RowPattern.s11KeyD : RowPattern.Statement .s11KeyD := rfl
theorem RowPattern.s12Data : RowPattern.Statement .s12Data := rfl
theorem RowPattern.s13CksD : RowPattern.Statement .s13CksD := rfl
theorem RowPattern.s14DumD : RowPattern.Statement .s14DumD := rfl
theorem RowPattern.s15SilOut : RowPattern.Statement .s15SilOut := rfl

end Sys2Proof.Laws
end

