-- ==== Sys2Proof/Laws/Step.lean ====
section
/-! SUPPORT. What a fetch, an act of the host, an instant and a step can do, said once. -/

namespace Sys2Proof.Machine

theorem fetch_running {s : State} (hb : s.busy = true) (hk : s.stepNo ≠ 0) :
    fetch s = .ok (.step s.stepNo) := by
  rw [fetch, if_pos hb, if_neg hk]

theorem fetch_idle {s : State} (hb : s.busy = false) (h : s.fault = true ∨ s.stepNo = 0) :
    fetch s = .ok (.step 0) := by
  rcases h with h | h
  · simp [fetch, hb, h]
  · cases hf : s.fault <;> simp [fetch, hb, h, hf]

theorem fetch_inconsistent {s : State}
    (h : (s.busy = true ∧ s.stepNo = 0) ∨ (s.busy = false ∧ s.fault = false ∧ s.stepNo ≠ 0)) :
    fetch s = .error .inconsistentPosition := by
  rcases h with ⟨hb, hk⟩ | ⟨hb, hf, hk⟩
  · rw [fetch, if_pos hb, if_pos hk]
  · rw [fetch, if_neg (by simp [hb]), if_neg (by simp [hf]), if_neg hk]

theorem runWord_of_decode {w : PortWord} {i : Instr} (s : State) (h : decode w = .ok i) :
    runWord w s = exec i s := by
  simp [runWord, h]

/-- The model step of a running core is the instruction STEP names. -/
theorem engineStep_running {s : State} (hb : s.busy = true) (hk : s.stepNo ≠ 0) :
    engineStep s = exec (decodeStep s.stepNo) s := by
  simp only [engineStep, fetch_running hb hk]
  exact runWord_of_decode s rfl

/-- An idle or faulted core does nothing. -/
theorem engineStep_idle {s : State} (hb : s.busy = false) (h : s.fault = true ∨ s.stepNo = 0) :
    engineStep s = .next s := by
  simp only [engineStep, fetch_idle hb h]
  exact runWord_of_decode (w := .step 0) (i := .idle) s rfl

/-- Everything a model step of the core on its own can do. -/
theorem engineStep_cases {s t : State} (h : engineStep s = .next t) :
    (s.busy = true ∧ s.stepNo ≠ 0 ∧ exec (decodeStep s.stepNo) s = .next t) ∨ (s.busy = false ∧ t = s) := by
  cases hb : s.busy
  · right
    by_cases hd : s.fault = true ∨ s.stepNo = 0
    · rw [engineStep_idle hb hd] at h; cases h; exact ⟨rfl, rfl⟩
    · rw [not_or, Bool.not_eq_true] at hd
      simp only [engineStep, fetch_inconsistent (.inr ⟨hb, hd⟩)] at h
      cases h
  · left
    by_cases hk : s.stepNo = 0
    · simp only [engineStep, fetch_inconsistent (.inl ⟨hb, hk⟩)] at h
      cases h
    · exact ⟨rfl, hk, by rw [← engineStep_running hb hk]; exact h⟩

/-- A write of CTRL is one of the two commands, or writes MODE alone. -/
theorem writeCtrl_eq (v : BitVec 32) (s : State) :
    writeCtrl v s = if v.getLsbD 0 then exec (if v.getLsbD 1 then .startBasic else .startMc) s
      else .next (writeMode (ctrlMode v) s) := by
  have h : ∀ w : BitVec 2, decode (.ctrl w) =
      if w.getLsbD 0 then .ok (if w.getLsbD 1 then .startBasic else .startMc) else .error .noCommand := by
    decide
  have e0 : (v.extractLsb' 0 2).getLsbD 0 = v.getLsbD 0 := by simp
  have e1 : (v.extractLsb' 0 2).getLsbD 1 = v.getLsbD 1 := by simp
  rw [writeCtrl, h, e0, e1]
  cases v.getLsbD 0 <;> rfl

/-- A running core's MODE is not written. -/
theorem writeMode_busy (m : TapeMode) {s : State} (hb : s.busy = true) : writeMode m s = s := by
  simp [writeMode, hb]

theorem writeMode_idle (m : TapeMode) {s : State} (hb : s.busy = false) :
    writeMode m s = { s with mode := m } := by
  simp [writeMode, hb]

/-- A START is ignored while BUSY = 1 (R141). -/
theorem startCommand_busy {s : State} (hb : s.busy = true) : startCommand s = s := by
  simp [startCommand, State.acceptsStart, hb]

theorem startRun_busy {s : State} (hb : s.busy = true) : startRun s = .next s := by
  simp [startRun, State.acceptsStart, hb, startCommand_busy hb]

/-- A write of CTRL is ignored while BUSY = 1 (R30). -/
theorem writeCtrl_busy (v : BitVec 32) {s : State} (hb : s.busy = true) : writeCtrl v s = .next s := by
  rw [writeCtrl_eq]
  split
  · split
    · show startRun (writeMode .basic s) = _
      rw [writeMode_busy _ hb, startRun_busy hb]
    · show startRun (writeMode .machineCode s) = _
      rw [writeMode_busy _ hb, startRun_busy hb]
  · rw [writeMode_busy _ hb]

/-- Everything a write of CTRL can do. -/
theorem writeCtrl_cases {v : BitVec 32} {s t : State} (h : writeCtrl v s = .next t) :
    ∃ m, startRun (writeMode m s) = .next t ∨ t = writeMode m s := by
  rw [writeCtrl_eq] at h
  split at h
  · split at h <;> exact ⟨_, .inl h⟩
  · cases h; exact ⟨_, .inr rfl⟩

/-- A word given to the modulator runs its instruction. -/
theorem runWord_cases {w : PortWord} {s t : State} (h : runWord w s = .next t) :
    ∃ i, decode w = .ok i ∧ exec i s = .next t := by
  unfold runWord at h
  split at h
  · exact ⟨_, ‹_›, h⟩
  · cases h

/-- The host places a byte of PROG: the byte is one the run does not use, or it is there already. -/
theorem placeProg_cases {i : Half} {b : Byte} {s t : State} (h : placeProg i b s = .next t) :
    t = { s with prog := Memory.write s.prog i.toNat b } ∧
    (usesProg i.toNat s = true → Memory.read s.prog i.toNat = some b) := by
  unfold placeProg at h
  split at h
  · cases h
  · rename_i hc
    cases h
    refine ⟨rfl, fun hu => ?_⟩
    simpa [hu] using hc

/-- The host places a byte of NAME, as `placeProg_cases`. -/
theorem placeName_cases {i : Nat} {b : Byte} {s t : State} (h : placeName i b s = .next t) :
    t = { s with name := Memory.write s.name i b } ∧
    (usesName i s = true → Memory.read s.name i = some b) := by
  unfold placeName at h
  split at h
  · cases h
  · rename_i hc
    cases h
    refine ⟨rfl, fun hu => ?_⟩
    simpa [hu] using hc

/-- The host takes bytes of PROG away: every one the run uses stays. -/
theorem truncateProg_cases {n : Nat} {s t : State} (h : truncateProg n s = .next t) :
    t = { s with prog := Memory.truncate s.prog n } ∧
    ∀ i, usesProg i s = true → Memory.read t.prog i = Memory.read s.prog i := by
  unfold truncateProg at h
  split at h
  · cases h
  · rename_i hc
    cases h
    refine ⟨rfl, fun i hu => ?_⟩
    show Memory.read (Memory.truncate s.prog n) i = _
    rw [Memory.read_truncate]
    split
    · rfl
    · rename_i hn
      cases hr : Memory.read s.prog i with
      | none => rfl
      | some b =>
        have hm := (Memory.isSome_read_iff s.prog i).1 (by rw [hr]; rfl)
        obtain ⟨c, hc', rfl⟩ := List.mem_map.1 hm
        exact absurd (List.any_eq_true.2 ⟨c, hc', by simp [hu]; omega⟩) hc

/-- A word of the host reaches a free modulator alone. -/
theorem driveModulator_cases {w : PortWord} {s t : State} (h : driveModulator w s = .next t) :
    (s.busy = false ∧ s.done = false ∧ s.fault = false) ∧ runWord w s = .next t := by
  unfold driveModulator at h
  split at h
  · rename_i hf
    refine ⟨?_, h⟩
    simp only [modulatorFree, Bool.and_eq_true, Bool.not_eq_true'] at hf
    exact ⟨hf.1.1, hf.1.2, hf.2⟩
  · cases h

theorem driveModulator_of_free {w : PortWord} {s : State} (hb : s.busy = false) (hd : s.done = false)
    (hf : s.fault = false) : driveModulator w s = runWord w s := by
  simp [driveModulator, modulatorFree, hb, hd, hf]

theorem driveModulator_refused {w : PortWord} {s : State} (h : s.busy = true ∨ s.done = true ∨ s.fault = true) :
    driveModulator w s = .refused .hostDrivesModulator := by
  refine if_neg ?_
  rcases h with h | h | h <;> simp [modulatorFree, h]

/-- An instant without reset: its act, then, where a running core advances, a model step. -/
theorem runMoment_cases {m : Moment} {s t : State} (h : runMoment m s = .next t) :
    (m.reset = true ∧ t = s.resetCore) ∨
    (m.reset = false ∧ ∃ u, runOptAct m.act (sinkEvent m.sink s) = .next u ∧
      (t = u ∨ (s.busy = true ∧ engineStep u = .next t))) := by
  unfold runMoment at h
  cases hm : m.reset
  · rw [hm] at h
    simp only [Bool.false_eq_true, if_false] at h
    right
    refine ⟨rfl, ?_⟩
    cases ho : runOptAct m.act (sinkEvent m.sink s) with
    | next u =>
      rw [ho] at h
      simp only [advanceAfter] at h
      refine ⟨u, rfl, ?_⟩
      split at h
      · rename_i hb; exact .inr ⟨by simp_all, h⟩
      · cases h; exact .inl rfl
    | fault f => rw [ho] at h; cases h
    | refused r => rw [ho] at h; cases h
  · rw [hm] at h; cases h; exact .inl ⟨rfl, rfl⟩

/-- A step with no instant waiting is the core's own. -/
theorem step_of_quiet {s : State} (h : s.inbox = []) : step s = engineStep s := by
  simp only [step, h]

/-- A step with an instant waiting takes it. -/
theorem step_of_waiting {s : State} {m : Moment} {rest : List Moment} (h : s.inbox = m :: rest) :
    step s = runMoment m { s with inbox := rest } := by
  simp only [step, h]

/-- An instant that is one act of the host is that act. -/
theorem runMoment_ofAct (a : HostAct) (s : State) : runMoment (Moment.ofAct a) s = runAct a s := by
  simp only [runMoment, Moment.ofAct, sinkEvent, runOptAct]
  cases runAct a s <;> rfl

end Sys2Proof.Machine
end

