-- ==== Sys2Proof/Laws/Run.lean ====
section
/-! SUPPORT. Facts about positions, about the model step of a running core and about chains of steps, for proofs
about whole runs. -/

namespace Sys2Proof.Machine

/-- Every value of STEP. -/
theorem stepNo_cases (k : BitVec 4) : k = 0 ∨ k = 1 ∨ k = 2 ∨ k = 3 ∨ k = 4 ∨ k = 5 ∨ k = 6 ∨ k = 7 ∨ k = 8 ∨
    k = 9 ∨ k = 10 ∨ k = 11 ∨ k = 12 ∨ k = 13 ∨ k = 14 ∨ k = 15 := by
  revert k; decide

/-- The step a position names is neither START nor, but for 0, IDLE; only 15 is the last step. -/
theorem decodeStep_ne (k : BitVec 4) : decodeStep k ≠ .startMc ∧ decodeStep k ≠ .startBasic ∧
    (k ≠ 0 → decodeStep k ≠ .idle) ∧ (k ≠ 15 → decodeStep k ≠ .s15SilOut) := by
  revert k; decide

/-- A 16-bit value is the one its number names. -/
theorem half_eq_iff (x y : Half) : x = y ↔ x.toNat = y.toNat :=
  ⟨fun h => by rw [h], BitVec.eq_of_toNat_eq⟩

theorem eq_leaderLast_iff (x : Half) : x = leaderLast ↔ x.toNat = 3599 := half_eq_iff x _

theorem eq_nameLast_iff (x : Half) : x = nameLast ↔ x.toNat = 15 := half_eq_iff x _

theorem eq_progLast_iff (x : Half) {y : Half} (h : 0 < y.toNat) : x = y - 1 ↔ x.toNat = y.toNat - 1 := by
  rw [half_eq_iff]
  have : (y - 1).toNat = y.toNat - 1 := by bv_omega
  rw [this]

/-- A primitive's own writes touch CKSUM alone. -/
theorem Prim.commit_keeps (p : Prim) (s : State) : (p.commit s).idx = s.idx ∧ (p.commit s).stepNo = s.stepNo ∧
    (p.commit s).progLen = s.progLen ∧ (p.commit s).mode = s.mode := by
  cases p <;> exact ⟨rfl, rfl, rfl, rfl⟩

/-- Everything the model step of a running core can do: settle its register writes, or take OutputUnwritable. -/
theorem exec_step_cases {s t : State} (hk : s.stepNo ≠ 0) (h : exec (decodeStep s.stepNo) s = .next t) :
    ∃ p, issuedPrim (decodeStep s.stepNo) s = some p ∧
      ((SinkTakes p.samples.length s ∧ t = settle (decodeStep s.stepNo) p (s.afterSamples p.samples)) ∨
       ∃ k, s.busy = true ∧ s.sinkRoom = some k ∧ k < p.samples.length ∧
         t = s.unwritable p.samples k (p.frozen k)) := by
  have hn := decodeStep_ne s.stepNo
  rcases exec_cases h with ⟨h, -⟩ | ⟨h, -⟩ | ⟨h, -⟩ | ⟨p, hp, -, -, -, h⟩
  · exact absurd h hn.1
  · exact absurd h hn.2.1
  · exact absurd h (hn.2.2.1 hk)
  · exact ⟨p, hp, h⟩

/-- What the name field depends on. -/
theorem nameField_congr {s t : State} (h1 : t.nameLen = s.nameLen)
    (h2 : ∀ i, i < min s.nameLen 16 → Memory.read t.name i = Memory.read s.name i) :
    nameField t = nameField s := by
  refine List.map_congr_left fun i hi => ?_
  have h16 := List.mem_range.1 hi
  unfold nameFieldByte
  rw [h1]
  split
  · rw [h2 i (by omega)]
  · rfl

/-- What the program bytes depend on. -/
theorem image_congr {s t : State} (h1 : t.progLen = s.progLen)
    (h2 : ∀ i, i < s.progLen.toNat → Memory.read t.prog i = Memory.read s.prog i) : image t = image s := by
  unfold image
  rw [h1]
  exact List.map_congr_left fun i hi => by rw [h2 i (List.mem_range.1 hi)]

/-- What the primitives of a run depend on. -/
theorem stepPrims_congr {s t : State} (h1 : nameField t = nameField s) (h2 : image t = image s)
    (h3 : t.progLen = s.progLen) (h4 : t.startAddr = s.startAddr) : stepPrims t = stepPrims s := by
  funext k
  unfold stepPrims headerSummed
  rw [h1, h2, h3, h4]

/-- One step of a chain. -/
theorem run_succ {n : Nat} {s t : State} (h : step s = .next t) : core.run (n + 1) s = core.run n t := by
  simp only [Host.Core.run]
  rw [show core.step s = .next t from h]

end Sys2Proof.Machine
end

