-- ==== Sys2Proof/Tests/Slice0.lean ====
section
/-! SUPPORT. Tests of this model. Expected values come from spec/opcode_table.json and from the vectors of
spec/95_test_vectors.md, named in each comment; then a witness for the hypotheses of each statement. -/

-- One theorem at a time: the kernel checks them in order, and the short tests behind a long one
-- would otherwise each hold a waiting thread, with its stack, until the memory limit refuses another.
set_option Elab.async false

namespace Sys2Proof.Tests

open Sys2Proof.Machine

/-! ### WellFormed -/

/-- 22369622 * 192 = 4294967424 is past 2^32 (M-Sref). -/
theorem test_wellFormed_refuses_long_silence : (Instr.emitSilence 22369622).wellFormed = false := by decide
/-- M-Smax. -/
theorem test_wellFormed_takes_longest_silence : (Instr.emitSilence 22369621).wellFormed = true := by decide
theorem test_wellFormed_refuses_reserved : Instr.modcmdReserved.wellFormed = false := by decide

/-! ### Decoding: each word written out from the `encoding` column of the table -/

theorem test_decode_cells : decode (.cell 0b1111000011110000) = .ok .cell1 ∧
    decode (.cell 0b1111111100000000) = .ok .cell0 ∧
    decode (.cell 0b1111000011110001) = .error .notACell := by decide
/-- The bit strings of M-Y26, M-YA5 and M-Y80. -/
theorem test_decode_frames : decode (.frame 0b00110010011) = .ok (.frame 0x26) ∧
    decode (.frame 0b01010010111) = .ok (.frame 0xA5) ∧
    decode (.frame 0b00000000111) = .ok (.frame 0x80) ∧
    decode (.frame 0b10000000011) = .error .notAFrame ∧
    decode (.frame 0b00000000010) = .error .notAFrame := by decide
theorem test_decode_keys : decode (.key 0b00100110) = .ok .keyHeaderMc ∧
    decode (.key 0b00100111) = .ok .keyDataMc ∧ decode (.key 0b00010110) = .ok .keyHeaderBasic ∧
    decode (.key 0b00010111) = .ok .keyDataBasic ∧ decode (.key 0b00100101) = .error .notAKeyCode := by decide
/-- The words of program P1, and one with every ignored bit set. -/
theorem test_decode_modcmd :
    decode (.modcmd 0b0000000000000000000000000000000001) = .ok (.emitBit true) ∧
    decode (.modcmd 0b0011111111111111111111111111111110) = .ok (.emitBit false) ∧
    decode (.modcmd 0b0111111111111111111111111110100101) = .ok (.emitByte 0xA5) ∧
    decode (.modcmd 0b1000000000000000000000000000000001) = .ok (.emitSilence 1) ∧
    decode (.modcmd 0b1100000000000000000000000000000000) = .ok .modcmdReserved := by decide
theorem test_decode_ctrl : decode (.ctrl 0b01) = .ok .startMc ∧ decode (.ctrl 0b11) = .ok .startBasic ∧
    decode (.ctrl 0b00) = .error .noCommand ∧ decode (.ctrl 0b10) = .error .noCommand := by decide
theorem test_decode_steps_low : decode (.step 0b0000) = .ok .idle ∧ decode (.step 0b0001) = .ok .s1SilIn ∧
    decode (.step 0b0010) = .ok .s2LdrH ∧ decode (.step 0b0011) = .ok .s3KeyH ∧
    decode (.step 0b0100) = .ok .s4Name ∧ decode (.step 0b0101) = .ok .s5Len ∧
    decode (.step 0b0110) = .ok .s6Addr ∧ decode (.step 0b0111) = .ok .s7CksH := by decide
theorem test_decode_steps_high : decode (.step 0b1000) = .ok .s8DumH ∧ decode (.step 0b1001) = .ok .s9SilGap ∧
    decode (.step 0b1010) = .ok .s10LdrD ∧ decode (.step 0b1011) = .ok .s11KeyD ∧
    decode (.step 0b1100) = .ok .s12Data ∧ decode (.step 0b1101) = .ok .s13CksD ∧
    decode (.step 0b1110) = .ok .s14DumD ∧ decode (.step 0b1111) = .ok .s15SilOut := by decide
/-- The table's own numbering: KEY8 at 8 bits, STEP4 below 16, CTRL2 at its own length, MODCMD34 in 40. -/
theorem test_decodeTableWord : decodeTableWord 8 0x27 = some .keyDataMc ∧ decodeTableWord 8 12 = some .s12Data ∧
    decodeTableWord 2 3 = some .startBasic ∧ decodeTableWord 16 0xF0F0 = some .cell1 ∧
    decodeTableWord 16 0x193 = some (.frame 0x26) ∧
    decodeTableWord 40 0x1000000A5 = some (.emitByte 0xA5) := by decide

/-! ### Single steps -/

/-- The next state, where there is one. -/
def next? : Outcome → Option State
  | .next s => some s
  | .fault _ => none
  | .refused _ => none

/-- The run of V-A at a position: name "TEST", PROG = [01, 02], START_ADDR = 0x8000. -/
def runA (k : BitVec 4) (i : Half) : State :=
  { State.reset with
    busy := true, stepNo := k, idx := i, startAddr := 0x8000, progLen := 2, nameLen := 4,
    prog := [(0, 0x01), (1, 0x02)], name := [(0, 0x54), (1, 0x45), (2, 0x53), (3, 0x54)] }

/-- STEP, IDX and CKSUM after one step. -/
def after (s : State) : Option (BitVec 4 × Half × Byte) :=
  (next? (step s)).map fun t => (t.stepNo, t.idx, t.cksum)

/-- OUT after one step from an empty OUT. -/
def emitted (s : State) : Option (List Sample) := (next? (step s)).map State.out

/-- H4 L4 H4 L4 and H8 L8 (S-W1). -/
def one : List Sample := [255, 255, 255, 255, 0, 0, 0, 0, 255, 255, 255, 255, 0, 0, 0, 0]
def zero : List Sample := [255, 255, 255, 255, 255, 255, 255, 255, 0, 0, 0, 0, 0, 0, 0, 0]

/-- M-B1, M-B0: CKSUM stays. -/
theorem test_emitBit : (next? (exec (.emitBit true) { State.reset with cksum := 0x5A })).map
    (fun t => (t.out, t.cksum)) = some (one, 0x5A) ∧
    (next? (exec (.emitBit false) { State.reset with cksum := 0x5A })).map
    (fun t => (t.out, t.cksum)) = some (zero, 0x5A) := by decide +kernel
/-- M-YA5: 5B + A5 wraps to 00. -/
theorem test_emitByte_wraps : (next? (exec (.emitByte 0xA5) { State.reset with cksum := 0x5B })).map
    (fun t => (t.out, t.cksum)) =
    some (zero ++ one ++ zero ++ one ++ zero ++ zero ++ one ++ zero ++ one ++ one ++ one, 0) := by
  decide +kernel
/-- M-S1, M-S9: 19 and 172 samples, the quotient truncated. -/
theorem test_emitSilence_truncates :
    (next? (exec (.emitSilence 1) State.reset)).map State.out = some (List.replicate 19 0x80) ∧
    (next? (exec (.emitSilence 9) State.reset)).map State.out = some (List.replicate 172 0x80) := by
  decide +kernel
/-- M-Sref. -/
theorem test_emitSilence_refused : exec (.emitSilence 22369622) State.reset = .refused .silenceTooLong := rfl
theorem test_modcmdReserved : exec .modcmdReserved State.reset = .refused .reservedCommand := rfl
theorem test_cells : (next? (exec .cell1 State.reset)).map State.out = some one ∧
    (next? (exec .cell0 State.reset)).map State.out = some zero := by decide +kernel
/-- The bit string of M-Y27; CKSUM stays. -/
theorem test_frame : (next? (exec (.frame 0x27) { State.reset with cksum := 7 })).map
    (fun t => (t.out, t.cksum)) =
    some (zero ++ one ++ one ++ one ++ zero ++ zero ++ one ++ zero ++ zero ++ one ++ one, 7) := by
  decide +kernel
/-- The first row of program P2: CKSUM is arbitrary before and 00 after; the frame of M-Y26. -/
theorem test_keyHeaderMc : (next? (exec .keyHeaderMc { State.reset with cksum := 0x99 })).map
    (fun t => (t.out, t.cksum)) =
    some (zero ++ zero ++ one ++ one ++ zero ++ zero ++ one ++ zero ++ zero ++ one ++ one, 0) := by
  decide +kernel
/-- The frames of M-Y27, M-Y16 and M-Y17. -/
theorem test_key_frames :
    (next? (exec .keyDataMc State.reset)).map State.out =
      some (zero ++ one ++ one ++ one ++ zero ++ zero ++ one ++ zero ++ zero ++ one ++ one) ∧
    (next? (exec .keyHeaderBasic State.reset)).map State.out =
      some (zero ++ zero ++ one ++ one ++ zero ++ one ++ zero ++ zero ++ zero ++ one ++ one) ∧
    (next? (exec .keyDataBasic State.reset)).map State.out =
      some (zero ++ one ++ one ++ one ++ zero ++ one ++ zero ++ zero ++ zero ++ one ++ one) := by
  decide +kernel
/-- V-X1: the reset state with MODE = 1. -/
theorem test_startBasic_faults : (next? (exec .startBasic State.reset)).map
    (fun t => ((t.fault, t.fcode, t.busy), t.done, t.stepNo, t.out)) = some ((true, 1, false), false, 0, []) := by
  decide +kernel
/-- V-X6: START after a finished run. -/
theorem test_startMc_begins_again : (next? (exec .startMc { State.reset with done := true, out := [0x80] })).map
    (fun t => (t.done, t.out, t.busy, t.stepNo)) = some (false, [], true, 1) := by decide +kernel
/-- V-X4: START while BUSY = 1. -/
theorem test_startMc_while_busy : exec .startMc (runA 2 100) = .next (runA 2 100) := rfl
theorem test_idle : exec .idle State.reset = .next State.reset := rfl

/-- E-1. -/
theorem test_s1 : after (runA 1 0) = some (2, 0, 0) ∧ emitted (runA 1 0) = some (List.replicate 192 0x80) := by
  decide +kernel
/-- E-2b, E-2c. -/
theorem test_s2 : after (runA 2 3598) = some (2, 3599, 0) ∧ after (runA 2 3599) = some (3, 0, 0) := by
  decide +kernel
/-- E-3: CKSUM = 7C before; the frame of M-Y26. -/
theorem test_s3 : after { runA 3 0 with cksum := 0x7C } = some (4, 0, 0) ∧ emitted (runA 3 0) =
    some (zero ++ zero ++ one ++ one ++ zero ++ zero ++ one ++ zero ++ zero ++ one ++ one) := by decide +kernel
/-- E-4a, E-4b: the last byte of the name, then the pad. -/
theorem test_s4_name_then_pad : after { runA 4 3 with cksum := 0xEC } = some (4, 4, 0x40) ∧
    after { runA 4 4 with cksum := 0x40 } = some (4, 5, 0x60) := by decide +kernel
/-- E-4c, E-4d: a long name ends at 15; a zero byte does not end a name. -/
theorem test_s4_ends : after { runA 4 15 with nameLen := 20, name := [(15, 0x50)] } = some (5, 0, 0x50) ∧
    after { runA 4 2 with nameLen := 5, name := [(2, 0x00)] } = some (4, 3, 0) := by decide +kernel
/-- E-5a, E-5b. -/
theorem test_s5 : after { runA 5 0 with progLen := 0x0102 } = some (5, 1, 1) ∧
    after { runA 5 1 with progLen := 0x0102 } = some (6, 0, 2) := by decide +kernel
/-- E-6a, E-6b. -/
theorem test_s6 : after (runA 6 0) = some (6, 1, 0x80) ∧ after (runA 6 1) = some (7, 0, 0) := by decide +kernel
/-- E-7a: CKSUM = 42 sends BE, whose bit string is 00111110111 (M-YBE). -/
theorem test_s7 : after { runA 7 0 with cksum := 0x42 } = some (8, 0, 0) ∧
    emitted { runA 7 0 with cksum := 0x42 } =
    some (zero ++ zero ++ one ++ one ++ one ++ one ++ one ++ zero ++ one ++ one ++ one) := by decide +kernel
/-- E-8. -/
theorem test_s8 : after (runA 8 0) = some (8, 1, 0) ∧ after (runA 8 1) = some (9, 0, 0) := by decide +kernel
/-- E-9. -/
theorem test_s9 : after (runA 9 0) = some (10, 0, 0) := by decide +kernel
/-- E-10. -/
theorem test_s10 : after (runA 10 3599) = some (11, 0, 0) := by decide +kernel
/-- E-11a, E-11b: step 12 is skipped for an empty program. -/
theorem test_s11 : after (runA 11 0) = some (12, 0, 0) ∧
    after { runA 11 0 with progLen := 0 } = some (13, 0, 0) := by decide +kernel
/-- E-12a, E-12b. -/
theorem test_s12 : after (runA 12 0) = some (12, 1, 1) ∧
    after { runA 12 1 with cksum := 1 } = some (13, 0, 3) := by decide +kernel
/-- E-12c: the largest program. -/
theorem test_s12_largest : after { runA 12 65534 with progLen := 65535, prog := [(65534, 0xFF)] } =
    some (13, 0, 0xFF) := by decide +kernel
/-- E-13: CKSUM = 03 sends FD, whose bit string is 01011111111 (M-YFD). -/
theorem test_s13 : after { runA 13 0 with cksum := 3 } = some (14, 0, 0) ∧
    emitted { runA 13 0 with cksum := 3 } =
    some (zero ++ one ++ zero ++ one ++ one ++ one ++ one ++ one ++ one ++ one ++ one) := by decide +kernel
/-- E-14. -/
theorem test_s14 : after (runA 14 0) = some (14, 1, 0) ∧ after (runA 14 1) = some (15, 0, 0) := by decide +kernel
/-- E-15. -/
theorem test_s15 : (next? (step (runA 15 0))).map (fun t => (t.stepNo, t.idx, t.busy, t.done)) =
    some (0, 0, false, true) := by decide +kernel

/-! ### Faults and the host -/

/-- V-X7: the sink fails 96 samples into the frame of name index 11 (BITPOS = 6, SAMPOS = 0); CKSUM stays. -/
theorem test_sink_fails_midframe :
    (next? (step { runA 4 11 with cksum := 0x20, sinkRoom := some 96 })).map
      (fun t => (t.stepNo, t.idx, t.cksum, t.out.length, t.ticks)) = some (4, 11, 0x20, 96, ⟨0, 6, 0x20, 0⟩) ∧
    (next? (step { runA 4 11 with cksum := 0x20, sinkRoom := some 96 })).map
      (fun t => (t.fault, t.fcode, t.busy, t.done)) = some (true, 2, false, false) := by decide +kernel
/-- V-X9: the sink fails on the last sample of step 15. -/
theorem test_sink_fails_at_the_end : (next? (step { runA 15 0 with sinkRoom := some 191 })).map
    (fun t => (t.fault, t.fcode, t.done, t.stepNo)) = some (true, 2, false, 15) := by decide +kernel
/-- V-X5: a parameter write during a run. -/
theorem test_parameter_write_while_busy : (next? (step ((runA 2 100).withAct (.writeProgLen 9)))).map
    (fun t => (t.progLen, t.stepNo, t.idx)) = some (2, 2, 100) := by decide +kernel
/-- V-X2: after the fault of V-X1, MODE is written and START is not taken. -/
theorem test_mode_write_after_fault :
    (next? (step (({ State.reset with mode := .basic, fault := true, fcode := 1 } : State).withAct
      (.writeCtrl 1)))).map (fun t => (t.mode, t.fault, t.fcode, t.stepNo, t.busy)) =
    some (.machineCode, true, 1, 0, false) := by decide +kernel
/-- R216: an image of 2 bytes declared as 1, and as 3. -/
theorem test_start_with_a_wrong_length_is_refused :
    exec .startMc { runA 0 0 with busy := false, progLen := 1 } = .refused .contractBroken ∧
    exec .startMc { runA 0 0 with busy := false, progLen := 3 } = .refused .contractBroken :=
  ⟨rfl, rfl⟩
/-- R110, R207: a command word during a run and after a fault is refused; where the modulator is free it runs. -/
theorem test_host_word_needs_a_free_modulator :
    runAct (.modcmd 0x1000000A5) (runA 4 0) = .refused .hostDrivesModulator ∧
    runAct (.key 0x26) { State.reset with fault := true, fcode := 1 } = .refused .hostDrivesModulator ∧
    (next? (runAct (.modcmd 0x1000000A5) State.reset)).map State.cksum = some 0xA5 :=
  ⟨rfl, rfl, by decide +kernel⟩
/-- R63: a used byte may not be taken away during a run; while the core is idle an image is taken away whole. -/
theorem test_truncateProg : truncateProg 1 (runA 2 0) = .refused .inputChangedDuringRun ∧
    (next? (truncateProg 2 (runA 2 0))).map State.prog = some [(0, 0x01), (1, 0x02)] ∧
    (next? (truncateProg 0 { runA 0 0 with busy := false })).map State.prog = some [] :=
  ⟨rfl, by decide +kernel, by decide +kernel⟩
/-- V-X3, V-X10: reset from a faulted state. -/
theorem test_reset_clears_fault :
    next? (step { runA 4 3 with fault := true, fcode := 2, inbox := [⟨true, .keep, some (.writeCtrl 1), false⟩] }) =
    some { State.reset with prog := (runA 4 3).prog, name := (runA 4 3).name } := by decide +kernel
/-- The header's checksum for "TEST", length 2, address 0x8000 is BE (S-A, V-A), for an empty program C0 (V-F). -/
theorem test_header_checksum : neg8 (headerSummed (runA 0 0)).sum = 0xBE ∧
    neg8 (headerSummed { runA 0 0 with progLen := 0 }).sum = 0xC0 := by decide +kernel
/-- The wire bytes of V-A. -/
theorem test_wire_bytes : wireHeader (runA 0 0) =
    [0x26, 0x54, 0x45, 0x53, 0x54, 0x20, 0x20, 0x20, 0x20, 0x20, 0x20, 0x20, 0x20, 0x20, 0x20, 0x20, 0x20,
     0x00, 0x02, 0x80, 0x00, 0xBE, 0x00, 0x00] ∧
    wireData (runA 0 0) = [0x27, 0x01, 0x02, 0xFD, 0x00, 0x00] := by decide +kernel

/-! ### Witnesses: for each statement with hypotheses, states and operands that meet all of them -/

theorem takes_sound {n : Nat} {s : State} (h : s.sinkRoom = none) : SinkTakes n s := by
  intro _ k hk; rw [h] at hk; cases hk

theorem takes_exactly {n : Nat} {s : State} (h : s.sinkRoom = some n) : SinkTakes n s := by
  intro _ k hk; rw [h] at hk; cases hk; exact Nat.le_refl _

theorem witness_EncodeOfDecodeGivesWordBack :
    (decode (.key 0x26) = .ok .keyHeaderMc ∧ ∀ w, PortWord.key 0x26 ≠ .modcmd w) ∧
    (0x0FFFFFFFF : BitVec 34).extractLsb' 32 2 = 0 ∧ (0x1FFFFFFFF : BitVec 34).extractLsb' 32 2 = 1 ∧
    (0x2FFFFFFFF : BitVec 34).extractLsb' 32 2 = 2 := by
  refine ⟨⟨by decide, fun w h => by cases h⟩, by decide, by decide, by decide⟩

/-- Both a sink that never fails and one with room for exactly the samples, running. -/
theorem witness_EmitBitAppendsItsCell : SinkTakes 16 State.reset ∧
    SinkTakes 16 { runA 2 0 with sinkRoom := some 16 } ∧ (0x000000001 : BitVec 34).extractLsb' 32 2 = 0 :=
  ⟨takes_sound rfl, takes_exactly rfl, by decide⟩

theorem witness_EmitByteSendsFrameAndAddsToChecksum : SinkTakes 176 State.reset ∧
    SinkTakes 176 { runA 4 0 with sinkRoom := some 176 } ∧ (0x1000000A5 : BitVec 34).extractLsb' 32 2 = 1 :=
  ⟨takes_sound rfl, takes_exactly rfl, by decide⟩

theorem witness_EmitSilenceAppendsMidSamples :
    ((22369621 : BitVec 32).toNat * 192 < 2 ^ 32 ∧ SinkTakes ((22369621 : BitVec 32).toNat * 192 / 10) State.reset) ∧
    2 ^ 32 ≤ (22369622 : BitVec 32).toNat * 192 ∧ (0x200000001 : BitVec 34).extractLsb' 32 2 = 2 :=
  ⟨⟨by decide, takes_sound rfl⟩, by decide, by decide⟩

theorem witness_ReservedCommandIsRefused : (0x300000000 : BitVec 34).extractLsb' 32 2 = 3 := by decide

theorem witness_WirePatternsAppendTheirSamples : SinkTakes 16 State.reset ∧ SinkTakes 176 State.reset :=
  ⟨takes_sound rfl, takes_sound rfl⟩

theorem witness_KeyCodesAreSentAndLeaveChecksumZero : SinkTakes 176 { State.reset with cksum := 0x99 } :=
  takes_sound rfl

theorem witness_FramesOfDifferentBytesDiffer : frame 0x26 = frame 0x26 := rfl

theorem witness_StartMachineCodeBeginsRun : (State.reset.busy = false ∧ State.reset.fault = false ∧
    Contract State.reset) ∧ ¬ Contract { State.reset with progLen := 1 } := by decide

theorem witness_StartBasicRaisesUnsupportedMode :
    ({ State.reset with done := true } : State).busy = false ∧ State.reset.fault = false := ⟨rfl, rfl⟩

/-- A faulted core. -/
def faulted : State := { runA 4 3 with busy := false, fault := true, fcode := 2 }

theorem witness_StartNotAcceptedChangesNothingElse : (runA 2 100).busy = true ∧
    (faulted.busy = false ∧ faulted.fault = true) := ⟨rfl, rfl, rfl⟩

theorem witness_IdleCoreChangesNothing :
    (State.reset.inbox = [] ∧ State.reset.busy = false ∧ State.reset.stepNo = 0) ∧
    (faulted.inbox = [] ∧ faulted.busy = false ∧ faulted.fault = true) := ⟨⟨rfl, rfl, rfl⟩, rfl, rfl, rfl⟩

theorem witness_SilenceStepsMoveOn : SinkTakes 192 { runA 1 0 with sinkRoom := some 192 } ∧
    SinkTakes 19200 { runA 9 0 with sinkRoom := some 19200 } := ⟨takes_exactly rfl, takes_exactly rfl⟩

theorem witness_LastStepEndsRun : SinkTakes 192 (runA 15 0) := takes_sound rfl

theorem witness_LeaderStepsSendOneBit : SinkTakes 16 (runA 2 3598) ∧ SinkTakes 16 (runA 2 3599) ∧
    (runA 2 3599).idx = 3599 ∧ (runA 2 3598).idx ≠ 3599 :=
  ⟨takes_sound rfl, takes_sound rfl, rfl, by decide⟩

theorem witness_HeaderKeyStepClearsChecksum : SinkTakes 176 (runA 3 0) := takes_sound rfl

theorem witness_DataKeyStepClearsChecksum : SinkTakes 176 (runA 11 0) ∧
    SinkTakes 176 { runA 11 0 with progLen := 0 } := ⟨takes_sound rfl, takes_sound rfl⟩

/-- The last byte of the name, the first pad, and the last byte of the field. -/
theorem witness_NameStepSendsNameOrPad :
    (SinkTakes 176 (runA 4 3) ∧ ((runA 4 3).idx.toNat < (runA 4 3).nameLen → (runA 4 3).idx.toNat < 16 ∧
      Memory.read (runA 4 3).name (runA 4 3).idx.toNat = some 0x54) ∧
      ((runA 4 3).nameLen ≤ (runA 4 3).idx.toNat → (0x54 : Byte) = 0x20)) ∧
    (SinkTakes 176 (runA 4 4) ∧ ((runA 4 4).idx.toNat < (runA 4 4).nameLen → (runA 4 4).idx.toNat < 16 ∧
      Memory.read (runA 4 4).name (runA 4 4).idx.toNat = some 0x20) ∧
      ((runA 4 4).nameLen ≤ (runA 4 4).idx.toNat → (0x20 : Byte) = 0x20)) ∧ (runA 4 15).idx = 15 :=
  ⟨⟨takes_sound rfl, by decide, by decide⟩, ⟨takes_sound rfl, by decide, fun _ => rfl⟩, rfl⟩

theorem witness_LengthStepSendsHighByteFirst : SinkTakes 176 (runA 5 0) ∧ (runA 5 0).idx = 0 ∧
    SinkTakes 176 (runA 5 1) ∧ (runA 5 1).idx = 1 := ⟨takes_sound rfl, rfl, takes_sound rfl, rfl⟩

theorem witness_AddressStepSendsHighByteFirst : SinkTakes 176 (runA 6 0) ∧ (runA 6 0).idx = 0 ∧
    SinkTakes 176 (runA 6 1) ∧ (runA 6 1).idx = 1 := ⟨takes_sound rfl, rfl, takes_sound rfl, rfl⟩

theorem witness_ChecksumStepsSendNegationAndLeaveZero : SinkTakes 176 { runA 7 0 with cksum := 0x42 } ∧
    SinkTakes 176 { runA 13 0 with cksum := 0x80 } := ⟨takes_sound rfl, takes_sound rfl⟩

theorem witness_DummyStepsSendZeroBytes : SinkTakes 176 (runA 8 0) ∧ SinkTakes 176 (runA 14 1) ∧
    (runA 14 1).idx = 1 ∧ (runA 8 0).idx ≠ 1 := ⟨takes_sound rfl, takes_sound rfl, rfl, by decide⟩

/-- The first byte, and the last. -/
theorem witness_DataStepSendsProgramByte :
    (SinkTakes 176 (runA 12 0) ∧ (runA 12 0).idx.toNat < (runA 12 0).progLen.toNat ∧
      Memory.read (runA 12 0).prog (runA 12 0).idx.toNat = some 0x01) ∧
    (SinkTakes 176 (runA 12 1) ∧ (runA 12 1).idx.toNat < (runA 12 1).progLen.toNat ∧
      Memory.read (runA 12 1).prog (runA 12 1).idx.toNat = some 0x02 ∧
      (runA 12 1).idx.toNat = (runA 12 1).progLen.toNat - 1) :=
  ⟨⟨takes_sound rfl, by decide, by decide⟩, takes_sound rfl, by decide, by decide, by decide⟩

/-- `runA` with nothing placed. -/
def bare (k : BitVec 4) (i : Half) : State := { runA k i with prog := [], name := [] }

theorem witness_UnbackedInputIsRefused :
    ((bare 12 1).idx.toNat < (bare 12 1).progLen.toNat ∧ Memory.read (bare 12 1).prog (bare 12 1).idx.toNat = none) ∧
    (bare 12 2).progLen.toNat ≤ (bare 12 2).idx.toNat ∧
    ((bare 4 3).idx.toNat < (bare 4 3).nameLen ∧ (bare 4 3).idx.toNat < 16 ∧
      Memory.read (bare 4 3).name (bare 4 3).idx.toNat = none) ∧
    (({ bare 4 16 with nameLen := 20 } : State).idx.toNat < 20 ∧ 16 ≤ (bare 4 16).idx.toNat) := by decide

theorem witness_PositionFollowsTransferTable : ∃ t, (runA 12 1).busy = true ∧ PositionLegal (runA 12 1) ∧
    exec (decodeStep (runA 12 1).stepNo) (runA 12 1) = .next t ∧ t.fault = false :=
  ⟨_, rfl, ⟨by decide, by decide, by decide⟩,
    exec_of_takes (i := .s12Data) (p := .byte 0x02) (by decide) (takes_sound rfl), rfl⟩

/-- Room for one sample less than the primitive has. -/
theorem witness_SinkFailureStopsAtItsSample :
    issuedPrim .s4Name { runA 4 0 with sinkRoom := some 175 } = some (.byte 0x54) ∧
    (runA 4 0).busy = true ∧ 175 < (Prim.byte 0x54).samples.length ∧
    0 < (Prim.bit true).samples.length := by decide +kernel

theorem witness_SinkFailureBeatsCompletion : ∃ t, (runA 15 0).busy = true ∧ (runA 15 0).done = false ∧
    exec .s15SilOut { runA 15 0 with sinkRoom := some 191 } = .next t :=
  ⟨_, rfl, rfl, exec_of_short (p := .silence 10) rfl rfl rfl (by decide +kernel)⟩

theorem witness_FaultIsClearedOnlyByReset : ∃ t, faulted.fault = true ∧ faulted.busy = false ∧
    step (faulted.withAct (.writeCtrl 1)) = .next t ∧
    ∀ m rest, (faulted.withAct (.writeCtrl 1)).inbox = m :: rest → m.reset = false :=
  ⟨_, rfl, rfl, rfl, fun m rest h => by cases h; rfl⟩

theorem witness_ResetBeatsEverything :
    ({ runA 15 0 with inbox := [⟨true, .failsAfter 0, some (.writeCtrl 1), true⟩] } : State).inbox =
      [⟨true, .failsAfter 0, some (.writeCtrl 1), true⟩] ∧
    (⟨true, .failsAfter 0, some (.writeCtrl 1), true⟩ : Moment).reset = true := ⟨rfl, rfl⟩

/-- An instruction of the frames that answers a next state: for the parameters and memories, the checksum, OUT, the
status and the position. -/
theorem witness_InstructionsKeepParametersAndMemories : ∃ t, exec .s12Data (runA 12 0) = .next t :=
  ⟨_, exec_of_takes (p := .byte 0x01) (by decide) (takes_sound rfl)⟩

theorem witness_OnlyFramedBytesWriteChecksum : ∃ t, exec .s2LdrH (runA 2 0) = .next t :=
  ⟨_, exec_of_takes (p := .bit true) rfl (takes_sound rfl)⟩

theorem witness_OutIsAppendOnly : (∃ t, exec .s7CksH (runA 7 0) = .next t) ∧
    Instr.s7CksH ≠ .startMc ∧ Instr.s7CksH ≠ .startBasic :=
  ⟨⟨_, exec_of_takes (p := .byte 0) (by decide) (takes_sound rfl)⟩, by decide, by decide⟩

/-- Both outcomes: a step that goes on, and one that the sink stops. -/
theorem witness_StatusChangesOnlyAsListed : (∃ t, exec .s2LdrH (runA 2 0) = .next t ∧ t.busy = true) ∧
    ∃ t, exec .s2LdrH { runA 2 0 with sinkRoom := some 0 } = .next t ∧ t.fault = true :=
  ⟨⟨_, exec_of_takes (p := .bit true) rfl (takes_sound rfl), rfl⟩,
    _, exec_of_short (p := .bit true) rfl rfl rfl (by decide), rfl⟩

theorem witness_OnlyStepsAndStartMovePosition : ∃ t, exec (.emitByte 0xA5) State.reset = .next t :=
  ⟨_, exec_of_takes (p := .byte 0xA5) rfl (takes_sound rfl)⟩

theorem witness_ParameterWritesAreIgnoredWhileBusy : (runA 2 0).busy = true ∧ State.reset.busy = false ∧
    (2 : BitVec 32).getLsbD 0 = false ∧ (3 : BitVec 32).getLsbD 0 = true := by decide

/-- The last used index and the first unused one, of PROG and of NAME. -/
theorem witness_UsedInputsMustStayStable :
    ((runA 2 0).busy = true ∧ (1 : Half).toNat < (runA 2 0).progLen.toNat ∧
      Memory.read (runA 2 0).prog (1 : Half).toNat ≠ some 0x55) ∧
    (3 < min (runA 2 0).nameLen 16 ∧ Memory.read (runA 2 0).name 3 ≠ some 0x55) ∧
    (runA 2 0).progLen.toNat ≤ (2 : Half).toNat ∧ min (runA 2 0).nameLen 16 ≤ 4 ∧
    (1 < (runA 2 0).progLen.toNat ∧ (Memory.read (runA 2 0).prog 1).isSome) ∧ (runA 2 0).progLen.toNat ≤ 2 ∧
    State.reset.busy = false := by decide

theorem witness_StartInTheInstantOfAStepIsIgnored : (runA 15 0).busy = true ∧ (runA 15 0).stepNo ≠ 0 ∧
    ({ runA 15 0 with inbox := [⟨false, .keep, some (.writeCtrl 1), true⟩] } : State).inbox =
      ⟨false, .keep, some (.writeCtrl 1), true⟩ :: [] := ⟨rfl, by decide, rfl⟩

theorem witness_StepRunsTheDecodedInstruction :
    ((runA 15 0).inbox = [] ∧ (runA 15 0).busy = true ∧ (runA 15 0).stepNo ≠ 0 ∧
      decode (.step (runA 15 0).stepNo) = .ok .s15SilOut) ∧
    (State.reset.inbox = [] ∧ State.reset.busy = false ∧ State.reset.stepNo = 0 ∧ decode (.step 0) = .ok .idle) ∧
    ((State.reset.withAct (.writeCtrl 0xFFFFFFFD)).inbox = ⟨false, .keep, some (.writeCtrl 0xFFFFFFFD), false⟩ :: [] ∧
      decode (.ctrl ((0xFFFFFFFD : BitVec 32).extractLsb' 0 2)) = .ok .startMc) ∧
    (State.reset.busy = false ∧ State.reset.done = false ∧ State.reset.fault = false) ∧
    ((State.reset.withAct (.modcmd 0x200000001)).inbox = ⟨false, .keep, some (.modcmd 0x200000001), false⟩ :: [] ∧
      decode (.modcmd 0x200000001) = .ok (.emitSilence 1)) ∧
    ((State.reset.withAct (.cell 0xF0F0)).inbox = ⟨false, .keep, some (.cell 0xF0F0), false⟩ :: [] ∧
      decode (.cell 0xF0F0) = .ok .cell1) ∧
    ((State.reset.withAct (.frame 0x193)).inbox = ⟨false, .keep, some (.frame 0x193), false⟩ :: [] ∧
      decode (.frame 0x193) = .ok (.frame 0x26)) ∧
    ((State.reset.withAct (.key 0x26)).inbox = ⟨false, .keep, some (.key 0x26), false⟩ :: [] ∧
      decode (.key 0x26) = .ok .keyHeaderMc) ∧
    ((HostAct.key 0x26).isPort = false ∧ ((runA 2 0).withAct (.key 0x26)).busy = true ∧
      (faulted.withAct (.key 0x26)).fault = true ∧
      ({ State.reset with done := true } : State).done = true) := by decide

theorem witness_InconsistentPositionIsStuck :
    ((runA 0 0).inbox = [] ∧ (runA 0 0).busy = true ∧ (runA 0 0).stepNo = 0) ∧
    ({ runA 7 0 with busy := false } : State).fault = false ∧ (runA 7 0).stepNo ≠ 0 := by decide

/-- One word of each format, step 12 with an empty program among them (log entry 23). -/
theorem witness_PlacedTableWordIsRunNext : decodeTableWord 2 1 = some .startMc ∧
    decodeTableWord 8 12 = some .s12Data ∧ State.reset.progLen = 0 ∧ decodeTableWord 8 0x17 = some .keyDataBasic ∧
    decodeTableWord 16 0xFF00 = some .cell0 ∧ decodeTableWord 16 0x7FF = none ∧
    decodeTableWord 40 0x300000000 = some .modcmdReserved := by decide

theorem witness_MemoryReadsWhatWasWritten : (1 : Nat) ≠ 0 ∧ Memory.wf [(0, 0x01), (1, 0x02)] := by decide

theorem runA_backed (k : BitVec 4) (i : Half) : Backed (runA k i) :=
  Contract.backed (s := runA k i) (show Contract (runA 0 0) by decide)

/-- The invariant of a run that has just begun, and the step it makes. -/
theorem runA_first_inv : Inv (runA 1 0) :=
  { oneFlag := by decide, code := by decide, machineCode := by decide,
    running := fun _ => ⟨by decide, by decide, by decide⟩, idle := by decide, noPrimitive := by decide,
    threeLevels := fun x hx => absurd hx List.not_mem_nil, backed := fun _ => runA_backed 1 0,
    progWf := by decide, nameWf := by decide }

theorem runA_first_steps : ∃ t, step (runA 1 0) = .next t :=
  ⟨_, (step_of_quiet rfl).trans ((engineStep_running rfl (by decide)).trans
    (exec_of_takes (i := .s1SilIn) (p := .silence 10) rfl (takes_sound rfl)))⟩

theorem witness_EveryStepKeepsInvariant : ∃ t, Inv (runA 1 0) ∧ step (runA 1 0) = .next t :=
  runA_first_steps.imp fun _ h => ⟨runA_first_inv, h⟩

theorem runA_first_runInv : RunInv (runA 1 0) :=
  { runA_first_inv with
    recordSum := fun _ _ => rfl
    stream := fun _ => rfl
    portsOnly := fun _ hm => absurd hm List.not_mem_nil
    checksum := fun _ => rfl }

theorem witness_EveryStepKeepsChecksumAndStream : ∃ t, RunInv (runA 1 0) ∧ step (runA 1 0) = .next t :=
  runA_first_steps.imp fun _ h => ⟨runA_first_runInv, h⟩

/-- The run of V-A where it stands at `(k, 0)`, with the stream and checksum it has there. -/
def runAt (k : BitVec 4) : State :=
  { runA k 0 with out := emittedSoFar (runA k 0), cksum := runningChecksum (runA k 0) }

theorem runAt_streamInv (k : BitVec 4) (h : k ≠ 0) : StreamInv (runAt k) :=
  { oneFlag := ⟨fun _ => ⟨rfl, rfl⟩, fun h => absurd h (by simp [runAt, runA, State.reset])⟩
    code := ⟨fun _ => rfl, fun h => absurd h (by simp [runAt, runA, State.reset])⟩
    machineCode := fun _ => rfl
    running := fun _ => ⟨h, Nat.zero_le _, fun _ => by simp [runAt, runA]⟩
    idle := fun h => absurd h (by simp [runAt, runA])
    noPrimitive := fun _ => rfl
    threeLevels := fun x hx => by
      obtain ⟨p, -, hp⟩ := List.mem_flatMap.1 hx
      exact Prim.mem_samples hp
    backed := fun _ => runA_backed k 0
    progWf := by show Memory.wf (runA 0 0).prog; decide
    nameWf := by show Memory.wf (runA 0 0).name; decide
    recordSum := fun _ _ => rfl
    stream := fun _ => rfl }

/-- The same run beside other inputs and another sink. -/
theorem runAt_streamInv_env (k : BitVec 4) (h : k ≠ 0) (ms : List Moment) (r : Option Nat) :
    StreamInv { runAt k with inbox := ms, sinkRoom := r } :=
  have i := runAt_streamInv k h
  ⟨⟨i.oneFlag, i.code, i.machineCode, i.running, i.idle, i.noPrimitive, i.threeLevels, i.backed, i.progWf, i.nameWf⟩,
    i.recordSum, i.stream⟩

theorem witness_ParityByteNegatesTheRecordSum :
    (StreamInv (runAt 7) ∧ (runAt 7).busy = true ∧ SinkTakes 176 (runAt 7) ∧ (runAt 7).stepNo = 7) ∧
    (StreamInv (runAt 13) ∧ (runAt 13).busy = true ∧ SinkTakes 176 (runAt 13) ∧ (runAt 13).stepNo = 13) :=
  ⟨⟨runAt_streamInv 7 (by decide), rfl, takes_sound rfl, rfl⟩,
    runAt_streamInv 13 (by decide), rfl, takes_sound rfl, rfl⟩

/-- An idle core with the inputs of V-A. -/
def launchA : State := { runA 0 0 with busy := false }

theorem launchA_contract : Contract launchA := by decide

theorem witness_CompleteRunWritesTheTape : Launchable launchA ∧
    ∀ r, launchA.sinkRoom = some r → (tape launchA).length ≤ r :=
  ⟨⟨rfl, rfl, launchA_contract, rfl⟩, fun _ h => by cases h⟩

/-- V-X7's sample, and the last one of the run. -/
theorem witness_FailedRunHoldsPrefixOfTape :
    (Launchable { launchA with sinkRoom := some 60000 } ∧ 60000 < 139712 + 176 * launchA.progLen.toNat) ∧
    Launchable { launchA with sinkRoom := some 140063 } ∧ 140063 < 139712 + 176 * launchA.progLen.toNat :=
  ⟨⟨⟨rfl, rfl, launchA_contract, rfl⟩, by decide⟩, ⟨rfl, rfl, launchA_contract, rfl⟩, by decide⟩

/-- Two launches of V-A: one from a fresh core, one with an old CKSUM, OUT and DONE and a byte past the name. -/
theorem witness_RunDependsOnItsInputsAlone :
    let s := launchA
    let t : State := { launchA with cksum := 0x99, done := true, out := [0x80], name := launchA.name ++ [(4, 0xFF)] }
    Launchable s ∧ Launchable t ∧ s.sinkRoom = none ∧ t.sinkRoom = none ∧ s.startAddr = t.startAddr ∧
    s.progLen = t.progLen ∧ (∀ i, i < s.progLen.toNat → Memory.read s.prog i = Memory.read t.prog i) ∧
    min s.nameLen 16 = min t.nameLen 16 ∧
    ∀ i, i < min s.nameLen 16 → Memory.read s.name i = Memory.read t.name i := by
  have h : ∀ i, i < 4 → Memory.read launchA.name i = Memory.read (launchA.name ++ [(4, 0xFF)]) i := by decide
  exact ⟨⟨rfl, rfl, launchA_contract, rfl⟩, ⟨rfl, rfl, by decide, rfl⟩, rfl, rfl, rfl, rfl, fun _ _ => rfl, rfl,
    fun i hi => h i hi⟩

/-- The run of V-A on its last step, with a sink that never fails or one with just the room it needs. -/
theorem witness_RunDependsOnItsInputsAlone_running :
    (∃ t, StreamInv (runAt 15) ∧ (runAt 15).busy = true ∧ step (runAt 15) = .next t ∧ t.done = true) ∧
    ∃ t, StreamInv { runAt 15 with sinkRoom := some 192 } ∧
      step { runAt 15 with sinkRoom := some 192 } = .next t ∧ t.done = true :=
  ⟨⟨_, runAt_streamInv 15 (by decide), rfl, (step_of_quiet rfl).trans ((engineStep_running rfl (by decide)).trans
      (exec_of_takes (i := .s15SilOut) (p := .silence 10) rfl (takes_sound rfl))), rfl⟩,
    _, runAt_streamInv_env 15 (by decide) [] (some 192),
    (step_of_quiet rfl).trans ((engineStep_running rfl (by decide)).trans
      (exec_of_takes (i := .s15SilOut) (p := .silence 10) rfl (takes_exactly rfl))), rfl⟩

/-- A silence, a bit and a byte that the sink takes, and a byte that it cuts short. -/
theorem witness_TicksRefineTheStep :
    (∃ t, (runA 1 0).inbox = [] ∧ (runA 1 0).busy = true ∧ (runA 1 0).stepNo ≠ 0 ∧
      (runA 1 0).ticks = Ticks.zero ∧ issuedPrim (decodeStep (runA 1 0).stepNo) (runA 1 0) = some (.silence 10) ∧
      step (runA 1 0) = .next t) ∧
    (∃ t, issuedPrim (decodeStep (runA 2 0).stepNo) (runA 2 0) = some (.bit true) ∧ step (runA 2 0) = .next t) ∧
    (∃ t, issuedPrim (decodeStep (runA 3 0).stepNo) (runA 3 0) = some (.byte 0x26) ∧ step (runA 3 0) = .next t) ∧
    ∃ t, step { runA 3 0 with sinkRoom := some 96 } = .next t ∧ t.fault = true :=
  ⟨runA_first_steps.imp fun _ h => ⟨rfl, rfl, by decide, rfl, rfl, h⟩,
    ⟨_, rfl, (step_of_quiet rfl).trans ((engineStep_running rfl (by decide)).trans
      (exec_of_takes (i := .s2LdrH) (p := .bit true) rfl (takes_sound rfl)))⟩,
    ⟨_, rfl, (step_of_quiet rfl).trans ((engineStep_running rfl (by decide)).trans
      (exec_of_takes (i := .s3KeyH) (p := .byte 0x26) rfl (takes_sound rfl)))⟩,
    _, (step_of_quiet rfl).trans ((engineStep_running rfl (by decide)).trans
      (exec_of_short (i := .s3KeyH) (p := .byte 0x26) rfl rfl rfl (by decide +kernel))), rfl⟩

theorem witness_LaunchRefusesWhatTheCoreCannotCheck :
    (⟨.basic, 0, [], []⟩ : Request).mode = .basic ∧
    ((⟨.machineCode, 0x10000, [], []⟩ : Request).mode = .machineCode ∧ 0xFFFF < 0x10000) ∧
    ((⟨.machineCode, 0xFFFF, [], List.replicate 65536 0⟩ : Request).startAddr ≤ 0xFFFF ∧
      65535 < (⟨.machineCode, 0xFFFF, [], List.replicate 65536 0⟩ : Request).prog.length) :=
  ⟨rfl, ⟨rfl, by decide⟩, Nat.le_refl _, by rw [List.length_replicate]; decide⟩

/-- The launch of V-A. -/
theorem witness_LaunchStartsTheRequestedRun : ∃ ms,
    launch ⟨.machineCode, 0x8000, [0x54, 0x45, 0x53, 0x54], [0x01, 0x02]⟩ = .ok ms ∧
    State.reset.busy = false ∧ State.reset.fault = false ∧ ({ State.reset with inbox := ms } : State).inbox = ms :=
  ⟨_, rfl, rfl, rfl, rfl⟩

/-- A running core beside which the host places a byte that the run does not use. -/
theorem witness_NoHostActDisturbsTheRunningStream : ∃ t,
    StreamInv ((runAt 7).withAct (.placeProg 2 0x55)) ∧
    step ((runAt 7).withAct (.placeProg 2 0x55)) = .next t ∧ t.busy = true :=
  ⟨_, runAt_streamInv_env 7 (by decide) _ _, rfl, rfl⟩

theorem witness_RunningCoreAlwaysSteps : Inv (runA 1 0) ∧ (runA 1 0).busy = true ∧ (runA 1 0).inbox = [] :=
  ⟨runA_first_inv, rfl, rfl⟩

end Sys2Proof.Tests
end

section
/-! PROOFS. Where steps 4 and 12 stop at an input that is not there. -/

namespace Sys2Proof.Machine

/-- A step of the engine without its operand is refused with the operand's reason. -/
theorem issueStep_of_error {prim : State → Except Refusal Prim} {after : State → State} {s : State} {r : Refusal}
    (h : prim s = .error r) : issueStep prim after s = .refused r := by
  simp [issueStep, h]

/-- Step 4 stops where its operand does. -/
theorem exec_s4Name_of_error {s : State} {r : Refusal} (h : nameByte s = .error r) :
    exec .s4Name s = .refused r :=
  issueStep_of_error (by rw [s4Prim, h]; rfl)

/-- Step 12 stops where its operand does. -/
theorem exec_s12Data_of_error {s : State} {r : Refusal} (h : progByte s = .error r) :
    exec .s12Data s = .refused r :=
  issueStep_of_error (by rw [s12Prim, h]; rfl)

/-- A declared byte of the image that the host has not placed (R64, R216). -/
theorem progByte_of_unbacked {s : State} (hlt : s.idx.toNat < s.progLen.toNat)
    (hn : Memory.read s.prog s.idx.toNat = none) : progByte s = .error .progIndexUnbacked := by
  simp [progByte, hlt, hn]

/-- The image has no read past PROG_LEN (R9, R51). -/
theorem progByte_of_undeclared {s : State} (hge : s.progLen.toNat ≤ s.idx.toNat) :
    progByte s = .error .progIndexUndeclared :=
  if_neg (Nat.not_lt.2 hge)

/-- A declared byte of the name field that the host has not placed (R64, R216). -/
theorem nameByte_of_unbacked {s : State} (hlt : s.idx.toNat < s.nameLen) (h16 : s.idx.toNat < 16)
    (hn : Memory.read s.name s.idx.toNat = none) : nameByte s = .error .nameIndexUnbacked := by
  simp [nameByte, hlt, Config.nameFieldLen, h16, hn]

/-- The name port has no read past its sixteen indices (R52), however long the declared name. -/
theorem nameByte_of_undeclared {s : State} (hlt : s.idx.toNat < s.nameLen) (h16 : 16 ≤ s.idx.toNat) :
    nameByte s = .error .nameIndexUndeclared :=
  (if_pos hlt).trans (if_neg (Nat.not_lt.2 h16))

/-- Settles O27: each step is refused with its operand's reason, and the operand's branches are the four clauses. -/
theorem unbackedInputIsRefused : Obligations.UnbackedInputIsRefused := by
  intro s
  refine ⟨?progUnbacked, ?progUndeclared, ?nameUnbacked, ?nameUndeclared⟩
  case progUnbacked => exact fun hlt hn => exec_s12Data_of_error (progByte_of_unbacked hlt hn)
  case progUndeclared => exact fun hge => exec_s12Data_of_error (progByte_of_undeclared hge)
  case nameUnbacked => exact fun hlt h16 hn => exec_s4Name_of_error (nameByte_of_unbacked hlt h16 hn)
  case nameUndeclared => exact fun hlt h16 => exec_s4Name_of_error (nameByte_of_undeclared hlt h16)

end Sys2Proof.Machine
end

section
/-! PROOFS. The invariant: each operation of the model keeps it, and so does every step. -/

namespace Sys2Proof.Machine

/-! ### Where the step of a running core stands next -/

/-- At or below a bound, what asks for the bound itself asks for not being below it. -/
theorem ite_at_bound {α : Type} {P : Prop} [Decidable P] {n m : Nat} (hP : P ↔ n = m) (h : n ≤ m) (a b : α) :
    (if P then a else b) = if n < m then b else a := by
  by_cases e : n = m
  · rw [if_pos (hP.2 e), if_neg (by omega)]
  · rw [if_neg (fun p => e (hP.1 p)), if_pos (by omega)]

/-- An index with two values is at the second where it is not at the first. -/
theorem ite_eq_one {α : Type} {i : Half} (h : i.toNat ≤ 1) (a b : α) :
    (if i = 1 then a else b) = if i = 0 then b else a := by
  have h2 : i = 0 ∨ i = 1 := by bv_omega
  rcases h2 with rfl | rfl <;> rfl

/-- The register writes of a running core's step move the position as the table of R158 says. -/
theorem settle_position {u : State} (p : Prim) (hl : PositionLegal u) :
    ((settle (decodeStep u.stepNo) p u).stepNo, (settle (decodeStep u.stepNo) p u).idx) = nextPosition u := by
  obtain ⟨h0, hidx, h12⟩ := hl
  obtain ⟨ei, ek, en, em⟩ := p.commit_keeps u
  unfold lastIdx at hidx
  unfold nextPosition
  rcases stepNo_cases u.stepNo with hk | hk | hk | hk | hk | hk | hk | hk | hk | hk | hk | hk | hk | hk | hk | hk <;>
    rw [hk] at hidx ek ⊢
  · exact absurd hk h0
  · exact s1After_position _
  · refine (s2After_position _).trans ?_
    rw [ei, ek]
    exact ite_at_bound (eq_leaderLast_iff _) hidx _ _
  · exact s3After_position _
  · refine (s4After_position _).trans ?_
    rw [ei, ek]
    exact ite_at_bound (eq_nameLast_iff _) hidx _ _
  · refine (s5After_position _).trans ?_
    rw [ei, ek, em]
    refine (ite_eq_one hidx _ _).trans ?_
    cases u.mode <;> rfl
  · refine (s6After_position _).trans ?_
    rw [ei, ek]
    exact ite_eq_one hidx _ _
  · exact s7After_position _
  · refine (s8After_position _).trans ?_
    rw [ei, ek]
    exact ite_eq_one hidx _ _
  · exact s9After_position _
  · refine (s10After_position _).trans ?_
    rw [ei, ek]
    exact ite_at_bound (eq_leaderLast_iff _) hidx _ _
  · refine (s11After_position _).trans ?_
    rw [en]
    by_cases e : u.progLen = 0
    · rw [e]; rfl
    · have hpos : 0 < u.progLen.toNat := by bv_omega
      rw [if_neg e]
      exact (if_pos hpos).symm
  · refine (s12After_position _).trans ?_
    rw [ei, ek, en]
    exact ite_at_bound (eq_progLast_iff _ (h12 hk)) hidx _ _
  · exact s13After_position _
  · refine (s14After_position _).trans ?_
    rw [ei, ek]
    exact ite_eq_one hidx _ _
  · exact s15After_position _

/-- `q` is in step `k` at an index up to `last`, or at the start of a step, step 12 only for a program that is not
empty. -/
def LegalAfter (k : BitVec 4) (last progLen : Nat) (q : BitVec 4 × Half) : Prop :=
  (∃ i : Half, q = (k, i) ∧ i.toNat ≤ last) ∨ ∃ k' : BitVec 4, q = (k', 0) ∧ k' ≠ 0 ∧ (k' = 12 → 0 < progLen)

/-- The start of a step that needs no program byte. -/
theorem LegalAfter.start {k k' : BitVec 4} {last progLen : Nat} (h : k' ≠ 0 ∧ k' ≠ 12) :
    LegalAfter k last progLen (k', 0) :=
  .inr ⟨k', rfl, h.1, fun e => absurd e h.2⟩

/-- Staying in the step while `P`, and going to the start of another one after it. -/
theorem LegalAfter.stay_or_start {k k' : BitVec 4} {last progLen : Nat} {P : Prop} [Decidable P] {i : Half}
    (hi : P → i.toNat ≤ last) (h : k' ≠ 0 ∧ k' ≠ 12) :
    LegalAfter k last progLen (if P then (k, i) else (k', 0)) := by
  by_cases hP : P
  · exact .inl ⟨i, if_pos hP, hi hP⟩
  · rw [if_neg hP]
    exact start h

/-- Step 15 apart, the table of R158 leads from a legal position to a legal one. -/
theorem nextPosition_legalAfter {s : State} (hl : PositionLegal s) (h15 : s.stepNo ≠ 15) :
    LegalAfter s.stepNo (lastIdx s) s.progLen.toNat (nextPosition s) := by
  obtain ⟨h0, -, -⟩ := hl
  have hsucc : ∀ n : Nat, s.idx.toNat < n → (s.idx + 1).toNat ≤ n := fun n h => by bv_omega
  unfold nextPosition lastIdx
  rcases stepNo_cases s.stepNo with hk | hk | hk | hk | hk | hk | hk | hk | hk | hk | hk | hk | hk | hk | hk | hk <;>
    rw [hk]
  · exact absurd hk h0
  · -- step 1
    exact .start (by decide)
  · -- step 2
    exact .stay_or_start (hsucc _) (by decide)
  · -- step 3
    exact .start (by decide)
  · -- step 4
    exact .stay_or_start (hsucc _) (by decide)
  · -- step 5
    by_cases hm : s.mode = .machineCode
    · rw [if_pos hm]
      exact .stay_or_start (fun _ => Nat.le_refl 1) (by decide)
    · rw [if_neg hm]
      exact .stay_or_start (fun _ => Nat.le_refl 1) (by decide)
  · -- step 6
    exact .stay_or_start (fun _ => Nat.le_refl 1) (by decide)
  · -- step 7
    exact .start (by decide)
  · -- step 8
    exact .stay_or_start (fun _ => Nat.le_refl 1) (by decide)
  · -- step 9
    exact .start (by decide)
  · -- step 10
    exact .stay_or_start (hsucc _) (by decide)
  · -- step 11
    by_cases h : 0 < s.progLen.toNat
    · exact .inr ⟨12, if_pos h, by decide, fun _ => h⟩
    · rw [if_neg h]
      exact .start (by decide)
  · -- step 12
    exact .stay_or_start (hsucc _) (by decide)
  · -- step 13
    exact .start (by decide)
  · -- step 14
    exact .stay_or_start (fun _ => Nat.le_refl 1) (by decide)
  · -- step 15
    exact absurd hk h15

/-- Step 15 apart, the position that follows a legal one is legal. -/
theorem positionLegal_of_next {s t : State} (hl : PositionLegal s) (h15 : s.stepNo ≠ 15)
    (hn : t.progLen = s.progLen) (hpos : (t.stepNo, t.idx) = nextPosition s) : PositionLegal t := by
  rcases nextPosition_legalAfter hl h15 with ⟨i, e, hi⟩ | ⟨k, e, h0, h12⟩
  · obtain ⟨ek, ei⟩ := Prod.mk.inj (hpos.trans e)
    obtain ⟨h0, -, h12⟩ := hl
    have hlast : lastIdx t = lastIdx s := by unfold lastIdx; rw [ek, hn]
    unfold PositionLegal
    rw [hlast, ek, ei, hn]
    exact ⟨h0, hi, h12⟩
  · obtain ⟨ek, ei⟩ := Prod.mk.inj (hpos.trans e)
    unfold PositionLegal
    rw [ei, ek, hn]
    exact ⟨h0, Nat.zero_le _, h12⟩

/-! ### What each operation does to the invariant -/

/-- The invariant does not read CKSUM, the sink or the inputs still to come. -/
theorem Inv.with_env {s : State} (h : Inv s) (c : Byte) (r : Option Nat) (ms : List Moment) :
    Inv { s with cksum := c, sinkRoom := r, inbox := ms } :=
  ⟨h.oneFlag, h.code, h.machineCode, h.running, h.idle, h.noPrimitive, h.threeLevels, h.backed, h.progWf, h.nameWf⟩

/-- While BUSY = 0 it reads no parameter, and of the memories only their form. -/
theorem Inv.with_inputs {s : State} (h : Inv s) (hb : s.busy = false) (m : TapeMode) (a l : Half) (n : Nat)
    {pr nm : Memory} (hpr : Memory.wf pr) (hnm : Memory.wf nm) :
    Inv { s with mode := m, startAddr := a, progLen := l, nameLen := n, prog := pr, name := nm } :=
  { oneFlag := h.oneFlag, code := h.code, idle := h.idle, noPrimitive := h.noPrimitive
    threeLevels := h.threeLevels, progWf := hpr, nameWf := hnm
    machineCode := by simp [hb], running := by simp [hb], backed := by simp [hb] }

/-- After reset the core is idle, with nothing in OUT and no memory listed. -/
theorem inv_reset : Inv State.reset :=
  { oneFlag := by decide, code := by decide, machineCode := by decide, idle := by decide, noPrimitive := by decide
    running := fun b => absurd b (by decide)
    threeLevels := fun _ hx => absurd hx List.not_mem_nil
    backed := fun b => absurd b (by decide)
    progWf := Memory.wf_nil, nameWf := Memory.wf_nil }

theorem Inv.resetCore {s : State} (h : Inv s) : Inv s.resetCore :=
  (inv_reset.with_inputs rfl .machineCode 0 0 0 h.progWf h.nameWf).with_env 0 s.sinkRoom s.inbox

/-- The samples of a primitive have the three levels. -/
theorem Inv.afterSamples {s : State} (h : Inv s) (p : Prim) : Inv (s.afterSamples p.samples) :=
  { h.with_env s.cksum (s.afterSamples p.samples).sinkRoom s.inbox with
    threeLevels := fun x hx => (List.mem_append.1 hx).elim (h.threeLevels x) Prim.mem_samples }

/-- A fault leaves nothing to hold but its code, the levels of OUT and the form of the memories. -/
theorem inv_of_faulted {t : State} (hb : t.busy = false) (hd : t.done = false) (hf : t.fault = true)
    (hc : t.fcode = 1 ∨ t.fcode = 2) (hout : ∀ x ∈ t.out, x = 0xFF ∨ x = 0x00 ∨ x = 0x80)
    (hp : Memory.wf t.prog) (hn : Memory.wf t.name) : Inv t :=
  { oneFlag := by simp [hb, hd], code := ⟨by simp [hf], fun _ => hc⟩, machineCode := by simp [hb]
    running := by simp [hb], idle := by simp [hf], noPrimitive := by simp [hf], threeLevels := hout
    backed := by simp [hb], progWf := hp, nameWf := hn }

/-- OutputUnwritable taken from a running core. -/
theorem Inv.unwritable {s : State} (h : Inv s) (hb : s.busy = true) (p : Prim) (k : Nat) (r : Ticks) :
    Inv (s.unwritable p.samples k r) :=
  have hout := fun x hx => (List.mem_append.1 hx).elim (h.threeLevels x) fun hx =>
    Prim.mem_samples (List.mem_of_mem_take hx)
  inv_of_faulted rfl (h.oneFlag.1 hb).1 rfl (.inr rfl) hout h.progWf h.nameWf

/-- A running core goes on at a legal position, or, after step 15, has ended its run and is at `(0, 0)`. -/
theorem settle_runs_or_ends {u : State} (p : Prim) (hb : u.busy = true) (hd : u.done = false)
    (hl : PositionLegal u) {t : State} (ht : t = settle (decodeStep u.stepNo) p u) :
    (t.busy = true ∧ t.done = false ∧ PositionLegal t) ∨
    (t.busy = false ∧ t.done = true ∧ t.stepNo = 0 ∧ t.idx = 0) := by
  subst ht
  by_cases h15 : u.stepNo = 15
  · rw [h15]
    exact .inr ⟨rfl, rfl, rfl, rfl⟩
  · obtain ⟨hbusy, hdone⟩ := settle_flags ((decodeStep_ne u.stepNo).2.2.2 h15) p u
    obtain ⟨-, -, -, hn, -⟩ := settle_keeps (decodeStep u.stepNo) p u
    exact .inl ⟨hbusy.trans hb, hdone.trans hd, positionLegal_of_next hl h15 hn (settle_position p hl)⟩

/-- The register writes of a running core's step. -/
theorem Inv.settle {u : State} (h : Inv u) (hb : u.busy = true) (p : Prim) :
    Inv (settle (decodeStep u.stepNo) p u) := by
  obtain ⟨hd, hf⟩ := h.oneFlag.1 hb
  have hends := settle_runs_or_ends p hb hd (h.running hb) rfl
  obtain ⟨hout, hmode, -, hpl, hnl, hprog, hname, -, -, hticks, hfault, hfcode⟩ :=
    settle_keeps (decodeStep u.stepNo) p u
  generalize Machine.settle (decodeStep u.stepNo) p u = t at *
  have hback : Backed t := by
    unfold Backed
    rw [hpl, hnl, hprog, hname]
    exact h.backed hb
  rw [hf] at hfault
  exact
    { oneFlag := by rcases hends with ⟨e1, e2, -⟩ | ⟨e1, e2, -⟩ <;> simp [e1, e2, hfault]
      code := ⟨fun _ => hfcode.trans (h.code.1 hf), fun hf' => absurd hf' (by simp [hfault])⟩
      machineCode := fun _ => hmode.trans (h.machineCode hb)
      running := fun b => by
        rcases hends with ⟨-, -, e⟩ | ⟨e, -⟩
        · exact e
        · exact absurd b (by simp [e])
      idle := fun b _ => by
        rcases hends with ⟨e, -⟩ | ⟨-, -, e⟩
        · exact absurd b (by simp [e])
        · exact e
      noPrimitive := fun _ => hticks.trans (h.noPrimitive hf)
      threeLevels := by rw [hout]; exact h.threeLevels
      backed := fun _ => hback
      progWf := by rw [hprog]; exact h.progWf
      nameWf := by rw [hname]; exact h.nameWf }

/-- The model step of the core on its own. -/
theorem Inv.engineStep {s t : State} (h : Inv s) (ht : engineStep s = .next t) : Inv t := by
  rcases engineStep_cases ht with ⟨hb, hk, he⟩ | ⟨-, rfl⟩
  · obtain ⟨p, -, ⟨-, rfl⟩ | ⟨k, -, -, -, rfl⟩⟩ := exec_step_cases hk he
    · exact (h.afterSamples p).settle hb p
    · exact h.unwritable hb p k _
  · exact h

/-! ### What the host does to it -/

theorem Inv.writeMode {s : State} (h : Inv s) (m : TapeMode) : Inv (writeMode m s) := by
  cases hb : s.busy
  · rw [writeMode_idle m hb]
    exact h.with_inputs hb m s.startAddr s.progLen s.nameLen h.progWf h.nameWf
  · rw [writeMode_busy m hb]
    exact h

/-- START: a run begins at `(1, 0)` with its inputs backed, UnsupportedMode is raised, or nothing happens. -/
theorem Inv.startRun {s t : State} (h : Inv s) (ht : startRun s = .next t) : Inv t := by
  rcases startRun_cases ht with ⟨hb, hf, hm, hc, rfl⟩ | ⟨hb, hf, -, rfl⟩ | ⟨-, rfl⟩
  · exact
      { oneFlag := by simp [hf], code := h.code, machineCode := fun _ => hm
        running := fun _ => ⟨(by decide : (1 : BitVec 4) ≠ 0), Nat.zero_le _, by simp⟩
        idle := by simp, noPrimitive := h.noPrimitive, threeLevels := by simp
        backed := fun _ => hc.backed, progWf := h.progWf, nameWf := h.nameWf }
  · exact inv_of_faulted rfl rfl rfl (.inl rfl) (by simp) h.progWf h.nameWf
  · exact h

theorem Inv.writeCtrl {s t : State} (h : Inv s) {v : BitVec 32} (ht : writeCtrl v s = .next t) : Inv t := by
  obtain ⟨m, hs | rfl⟩ := writeCtrl_cases ht
  · exact (h.writeMode m).startRun hs
  · exact h.writeMode m

/-- A byte placed anywhere leaves a backed index backed. -/
theorem isSome_read_write {m : Memory} {i : Nat} (h : (Memory.read m i).isSome) (a : Nat) (b : Byte) :
    (Memory.read (Memory.write m a b) i).isSome := by
  by_cases e : i = a
  · rw [e, Memory.read_write_same]; rfl
  · rwa [Memory.read_write_other m b e]

/-- A memory of the host may change where every byte the run uses stays backed. -/
theorem Inv.with_memories {s : State} (h : Inv s) {pr nm : Memory} (hpr : Memory.wf pr) (hnm : Memory.wf nm)
    (hb : s.busy = true → Backed { s with prog := pr, name := nm }) : Inv { s with prog := pr, name := nm } :=
  ⟨h.oneFlag, h.code, h.machineCode, h.running, h.idle, h.noPrimitive, h.threeLevels, hb, hpr, hnm⟩

theorem Inv.placeProg {s t : State} (h : Inv s) {i : Half} {b : Byte} (ht : placeProg i b s = .next t) :
    Inv t := by
  obtain ⟨rfl, -⟩ := placeProg_cases ht
  exact h.with_memories (Memory.wf_write _ b h.progWf) h.nameWf fun hb =>
    ⟨fun j hj => isSome_read_write ((h.backed hb).1 j hj) _ b, (h.backed hb).2⟩

theorem Inv.placeName {s t : State} (h : Inv s) {i : Nat} {b : Byte} (ht : placeName i b s = .next t) :
    Inv t := by
  obtain ⟨rfl, -⟩ := placeName_cases ht
  exact h.with_memories h.progWf (Memory.wf_write i b h.nameWf) fun hb =>
    ⟨(h.backed hb).1, fun j hj => isSome_read_write ((h.backed hb).2 j hj) i b⟩

theorem Inv.truncateProg {s t : State} (h : Inv s) {n : Nat} (ht : truncateProg n s = .next t) : Inv t := by
  obtain ⟨rfl, hread⟩ := truncateProg_cases ht
  refine h.with_memories (Memory.wf_truncate n h.progWf) h.nameWf fun hb => ⟨fun j hj => ?_, (h.backed hb).2⟩
  exact (hread j (by simp [usesProg, hb, hj])) ▸ (h.backed hb).1 j hj

/-! ### Words for the modulator -/

/-- The modulator's commands, the wire patterns, the key-codes and IDLE: what moves no position (R26, R27). -/
def leavesPosition : Instr → Bool
  | .cell1 | .cell0 | .frame _ | .keyHeaderMc | .keyDataMc | .keyHeaderBasic | .keyDataBasic => true
  | .emitBit _ | .emitByte _ | .emitSilence _ | .modcmdReserved | .idle => true
  | .startMc | .startBasic | .s1SilIn | .s2LdrH | .s3KeyH | .s4Name | .s5Len | .s6Addr | .s7CksH | .s8DumH
  | .s9SilGap | .s10LdrD | .s11KeyD | .s12Data | .s13CksD | .s14DumD | .s15SilOut => false

/-- Their register writes are a write of CKSUM at most. -/
theorem settle_of_leavesPosition {i : Instr} (hi : leavesPosition i = true) (p : Prim) (t : State) :
    ∃ c, settle i p t = { t with cksum := c } := by
  have hcommit : ∃ c, p.commit t = { t with cksum := c } := by cases p <;> exact ⟨_, rfl⟩
  have hclear : ∃ c, (p.commit t).clearCksum = { t with cksum := c } := by cases p <;> exact ⟨_, rfl⟩
  cases i with
  | cell1 | cell0 | frame _ | modcmdReserved | idle => exact ⟨t.cksum, rfl⟩
  | keyHeaderMc | keyDataMc | keyHeaderBasic | keyDataBasic => exact hclear
  | emitBit _ | emitByte _ | emitSilence _ => exact hcommit
  | _ => exact absurd hi Bool.false_ne_true

/-- Everything an instruction can do: START, nothing, or a primitive with its register writes or cut short. -/
theorem exec_starts_or_emits {i : Instr} {s t : State} (h : exec i s = .next t) :
    ((i = .startMc ∨ i = .startBasic) ∧ ∃ m, startRun (writeMode m s) = .next t) ∨ t = s ∨
    ∃ p, issuedPrim i s = some p ∧ (t = settle i p (s.afterSamples p.samples) ∨
      ∃ k, s.busy = true ∧ t = s.unwritable p.samples k (p.frozen k)) := by
  rcases exec_cases h with ⟨e, hs⟩ | ⟨e, hs⟩ | ⟨-, e⟩ | ⟨p, hp, -, -, -, ⟨-, e⟩ | ⟨k, hb, -, -, e⟩⟩
  · exact .inl ⟨.inl e, _, hs⟩
  · exact .inl ⟨.inr e, _, hs⟩
  · exact .inr (.inl e)
  · exact .inr (.inr ⟨p, hp, .inl e⟩)
  · exact .inr (.inr ⟨p, hp, .inr ⟨k, hb, e⟩⟩)

/-- Everything they can do: nothing, their samples with a write of CKSUM at most, or OutputUnwritable. -/
theorem exec_of_leavesPosition {i : Instr} {s t : State} (hi : leavesPosition i = true) (h : exec i s = .next t) :
    t = s ∨ (∃ (p : Prim) (c : Byte), t = { s.afterSamples p.samples with cksum := c }) ∨
    ∃ (p : Prim) (k : Nat), s.busy = true ∧ t = s.unwritable p.samples k (p.frozen k) := by
  rcases exec_starts_or_emits h with ⟨rfl | rfl, -⟩ | e | ⟨p, -, rfl | ⟨k, hb, e⟩⟩
  · exact absurd hi Bool.false_ne_true
  · exact absurd hi Bool.false_ne_true
  · exact .inl e
  · obtain ⟨c, e⟩ := settle_of_leavesPosition hi p (s.afterSamples p.samples)
    exact .inr (.inl ⟨p, c, e⟩)
  · exact .inr (.inr ⟨p, k, hb, e⟩)

/-- The word stands at one of the modulator's interfaces. -/
def forModulator : PortWord → Bool
  | .cell _ | .frame _ | .key _ | .modcmd _ => true
  | .ctrl _ | .step _ => false

/-- No word for the modulator is a START or a step of the engine. -/
theorem leavesPosition_of_decode {w : PortWord} {i : Instr} (hw : forModulator w = true) (h : decode w = .ok i) :
    leavesPosition i = true := by
  cases w with
  | cell w => simp only [decode, decodeCell] at h; split_ifs at h <;> cases h <;> rfl
  | frame w => simp only [decode, decodeFrame] at h; split_ifs at h; cases h; rfl
  | key w => simp only [decode, decodeKey] at h; split_ifs at h <;> cases h <;> rfl
  | modcmd w => simp only [decode, decodeModcmd] at h; split_ifs at h <;> cases h <;> rfl
  | ctrl w => exact absurd hw Bool.false_ne_true
  | step w => exact absurd hw Bool.false_ne_true

theorem Inv.driveModulator {s t : State} (h : Inv s) {w : PortWord} (hw : forModulator w = true)
    (ht : driveModulator w s = .next t) : Inv t := by
  obtain ⟨⟨hb, -, -⟩, hr⟩ := driveModulator_cases ht
  obtain ⟨i, hi, he⟩ := runWord_cases hr
  rcases exec_of_leavesPosition (leavesPosition_of_decode hw hi) he with rfl | ⟨p, c, rfl⟩ | ⟨p, k, hb', -⟩
  · exact h
  · exact (h.afterSamples p).with_env c _ _
  · exact absurd hb' (by simp [hb])

/-! ### One instant and one step -/

/-- A parameter write is taken while BUSY = 0 alone (R30). -/
theorem writeStartAddr_idle {s : State} (a : Half) (hb : s.busy = false) :
    writeStartAddr a s = { s with startAddr := a } := by simp [writeStartAddr, hb]
theorem writeProgLen_idle {s : State} (a : Half) (hb : s.busy = false) :
    writeProgLen a s = { s with progLen := a } := by simp [writeProgLen, hb]
theorem writeNameLen_idle {s : State} (n : Nat) (hb : s.busy = false) :
    writeNameLen n s = { s with nameLen := n } := by simp [writeNameLen, hb]

theorem writeStartAddr_busy {s : State} (a : Half) (hb : s.busy = true) : writeStartAddr a s = s := by
  simp [writeStartAddr, hb]
theorem writeProgLen_busy {s : State} (a : Half) (hb : s.busy = true) : writeProgLen a s = s := by
  simp [writeProgLen, hb]
theorem writeNameLen_busy {s : State} (n : Nat) (hb : s.busy = true) : writeNameLen n s = s := by
  simp [writeNameLen, hb]

/-- The three parameter writes. -/
theorem Inv.writeParameter {s : State} (h : Inv s) (a : Half) (n : Nat) :
    Inv (writeStartAddr a s) ∧ Inv (writeProgLen a s) ∧ Inv (writeNameLen n s) := by
  cases hb : s.busy
  · rw [writeStartAddr_idle a hb, writeProgLen_idle a hb, writeNameLen_idle n hb]
    have hw := fun a l n => h.with_inputs hb s.mode a l n h.progWf h.nameWf
    exact ⟨hw _ _ _, hw _ _ _, hw _ _ _⟩
  · rw [writeStartAddr_busy a hb, writeProgLen_busy a hb, writeNameLen_busy n hb]
    exact ⟨h, h, h⟩

/-- One act of the host. -/
theorem Inv.runAct {s t : State} (h : Inv s) {a : HostAct} (ht : runAct a s = .next t) : Inv t := by
  cases a with
  | writeCtrl v => exact h.writeCtrl ht
  | writeStartAddr v => cases ht; exact (h.writeParameter v 0).1
  | writeProgLen v => cases ht; exact (h.writeParameter v 0).2.1
  | writeNameLen n => cases ht; exact (h.writeParameter 0 n).2.2
  | writeReadOnly p v => cases ht; exact h
  | placeProg i b => exact h.placeProg ht
  | placeName i b => exact h.placeName ht
  | truncateProg n => exact h.truncateProg ht
  | modcmd w | cell w | frame w | key w => exact h.driveModulator rfl ht

theorem Inv.sinkEvent {s : State} (h : Inv s) (e : SinkEvent) : Inv (sinkEvent e s) := by
  cases e with
  | keep => exact h
  | sound => exact h.with_env s.cksum none s.inbox
  | failsAfter n => exact h.with_env s.cksum (some n) s.inbox

/-- One instant: the sink's wire, the act of the host, then a running core's model step. -/
theorem Inv.runMoment {s t : State} (h : Inv s) {m : Moment} (ht : runMoment m s = .next t) : Inv t := by
  rcases runMoment_cases ht with ⟨-, rfl⟩ | ⟨-, u, hu, hstep⟩
  · exact h.resetCore
  · have hi : Inv u := by
      cases ha : m.act with
      | none => rw [ha] at hu; cases hu; exact h.sinkEvent m.sink
      | some a => rw [ha] at hu; exact (h.sinkEvent m.sink).runAct hu
    rcases hstep with rfl | ⟨-, he⟩
    · exact hi
    · exact hi.engineStep he

/-- Settles O48: a step is the core's own or the oldest waiting instant, and both keep the invariant. -/
theorem everyStepKeepsInvariant : Obligations.EveryStepKeepsInvariant := by
  intro s t h ht
  cases hin : s.inbox with
  | nil => exact h.engineStep ((step_of_quiet hin).symm.trans ht)
  | cons m rest => exact (h.with_env s.cksum s.sinkRoom rest).runMoment ((step_of_waiting hin).symm.trans ht)

/-- Settles O47: the reset state neither runs nor has faulted, and its OUT and memories are empty. -/
theorem resetStateMeetsInvariant : Obligations.ResetStateMeetsInvariant := inv_reset

end Sys2Proof.Machine
end

section
/-! PROOFS. What every instruction leaves unchanged, the ports, and which instruction a step runs. -/

namespace Sys2Proof.Machine

/-! ### Frames of the instructions -/

/-- What is left of that where the instruction is not START. -/
theorem exec_emits {i : Instr} {s t : State} (h : exec i s = .next t) (h1 : i ≠ .startMc) (h2 : i ≠ .startBasic) :
    t = s ∨ ∃ p, t = settle i p (s.afterSamples p.samples) ∨
      ∃ k, s.busy = true ∧ t = s.unwritable p.samples k (p.frozen k) := by
  rcases exec_starts_or_emits h with ⟨e | e, -⟩ | e | ⟨p, -, e⟩
  · exact absurd e h1
  · exact absurd e h2
  · exact .inl e
  · exact .inr ⟨p, e⟩

/-- START writes no parameter but MODE, no memory, no waiting input and not CKSUM. -/
theorem start_keeps {m : TapeMode} {s t : State} (h : startRun (writeMode m s) = .next t) :
    t.startAddr = s.startAddr ∧ t.progLen = s.progLen ∧ t.nameLen = s.nameLen ∧ t.prog = s.prog ∧
    t.name = s.name ∧ t.inbox = s.inbox ∧ t.cksum = s.cksum := by
  obtain ⟨m', e⟩ : ∃ m', writeMode m s = { s with mode := m' } := by
    by_cases hb : s.busy = true
    · exact ⟨s.mode, writeMode_busy m hb⟩
    · exact ⟨m, writeMode_idle m (Bool.not_eq_true _ ▸ hb)⟩
  rw [e] at h
  rcases startRun_cases h with ⟨-, -, -, -, rfl⟩ | ⟨-, -, -, rfl⟩ | ⟨-, rfl⟩ <;>
    exact ⟨rfl, rfl, rfl, rfl, rfl, rfl, rfl⟩

/-- No instruction writes a parameter but MODE, a memory of the host or an input still to come. -/
theorem exec_keeps_inputs {i : Instr} {s t : State} (h : exec i s = .next t) :
    t.startAddr = s.startAddr ∧ t.progLen = s.progLen ∧ t.nameLen = s.nameLen ∧ t.prog = s.prog ∧
    t.name = s.name ∧ t.inbox = s.inbox := by
  rcases exec_starts_or_emits h with ⟨-, m, hs⟩ | rfl | ⟨p, -, rfl | ⟨k, -, rfl⟩⟩
  · obtain ⟨ha, hpl, hnl, hp, hn, hi, -⟩ := start_keeps hs
    exact ⟨ha, hpl, hnl, hp, hn, hi⟩
  · exact ⟨rfl, rfl, rfl, rfl, rfl, rfl⟩
  · obtain ⟨-, -, ha, hpl, hnl, hp, hn, -, hi, -⟩ := settle_keeps i p (s.afterSamples p.samples)
    exact ⟨ha, hpl, hnl, hp, hn, hi⟩
  · exact ⟨rfl, rfl, rfl, rfl, rfl, rfl⟩

/-- Only START writes MODE. -/
theorem exec_keeps_mode {i : Instr} {s t : State} (h : exec i s = .next t) (h1 : i ≠ .startMc)
    (h2 : i ≠ .startBasic) : t.mode = s.mode := by
  rcases exec_emits h h1 h2 with rfl | ⟨p, rfl | ⟨k, -, rfl⟩⟩
  · rfl
  · exact (settle_keeps i p (s.afterSamples p.samples)).2.1
  · rfl

/-- Settles O34: the memories are kept as they are listed, so every index reads as before. -/
theorem instructionsKeepParametersAndMemories : Obligations.InstructionsKeepParametersAndMemories := by
  intro i s t h
  obtain ⟨ha, hpl, hnl, hp, hn, hi⟩ := exec_keeps_inputs h
  exact ⟨ha, hpl, hnl, fun _ => by rw [hp], fun _ => by rw [hn], hi, exec_keeps_mode h⟩

/-- What sends no byte but 0 through `EMIT_BYTE`, and is no key-code (R21). -/
def leavesCksum : Instr → Bool
  | .cell1 | .cell0 | .frame _ | .emitBit _ | .emitSilence _ | .startMc | .startBasic | .idle => true
  | .s1SilIn | .s2LdrH | .s8DumH | .s9SilGap | .s10LdrD | .s14DumD | .s15SilOut => true
  | .keyHeaderMc | .keyDataMc | .keyHeaderBasic | .keyDataBasic | .emitByte _ | .modcmdReserved => false
  | .s3KeyH | .s4Name | .s5Len | .s6Addr | .s7CksH | .s11KeyD | .s12Data | .s13CksD => false

/-- A byte 0, as the dummy steps send it, leaves the sum as it was (R149, R155). -/
theorem Prim.commit_zero_cksum (t : State) : ((Prim.byte 0).commit t).cksum = t.cksum := BitVec.add_zero t.cksum

/-- The register writes of such an instruction leave CKSUM. -/
theorem settle_of_leavesCksum {i : Instr} {s : State} {p : Prim} (hi : leavesCksum i = true)
    (hp : issuedPrim i s = some p) (t : State) : (settle i p t).cksum = t.cksum := by
  cases i with
  | idle | startMc | startBasic => cases hp
  | cell1 | cell0 | frame _ | emitBit _ => cases hp; rfl
  | emitSilence ms =>
    simp only [issuedPrim, Option.ite_none_right_eq_some] at hp
    obtain ⟨-, hp⟩ := hp
    cases hp; rfl
  | s1SilIn | s9SilGap | s15SilOut => cases hp; rfl
  | s2LdrH => cases hp; exact s2After_cksum t
  | s10LdrD => cases hp; exact s10After_cksum t
  | s8DumH => cases hp; exact (s8After_cksum _).trans (Prim.commit_zero_cksum t)
  | s14DumD => cases hp; exact (s14After_cksum _).trans (Prim.commit_zero_cksum t)
  | _ => exact absurd hi Bool.false_ne_true

/-- Settles O35: the register writes of each listed instruction leave CKSUM, and a primitive cut short writes none. -/
theorem onlyFramedBytesWriteChecksum : Obligations.OnlyFramedBytesWriteChecksum := by
  intro i s t h hlist
  have hi : leavesCksum i = true := by
    rcases hlist with rfl | rfl | ⟨_, rfl⟩ | ⟨_, rfl⟩ | ⟨_, rfl⟩ | rfl | rfl | rfl | rfl | rfl | rfl | rfl | rfl |
      rfl | rfl <;> rfl
  rcases exec_starts_or_emits h with ⟨-, m, hs⟩ | rfl | ⟨p, hp, rfl | ⟨k, -, rfl⟩⟩
  · obtain ⟨-, -, -, -, -, -, hc⟩ := start_keeps hs
    exact hc
  · rfl
  · exact settle_of_leavesCksum hi hp (s.afterSamples p.samples)
  · rfl

/-- Settles O36: a primitive appends its samples, or the first of them, and no register write touches OUT. -/
theorem outIsAppendOnly : Obligations.OutIsAppendOnly := by
  intro i s t h h1 h2
  rcases exec_emits h h1 h2 with rfl | ⟨p, rfl | ⟨k, -, rfl⟩⟩
  · exact List.prefix_rfl
  · rw [(settle_keeps i p (s.afterSamples p.samples)).1]
    exact List.prefix_append s.out p.samples
  · exact List.prefix_append s.out (p.samples.take k)

/-- Settles O37: the register writes leave the four items, and only a primitive cut short raises a fault. -/
theorem statusChangesOnlyAsListed : Obligations.StatusChangesOnlyAsListed := by
  intro i s t h h1 h2 h15
  rcases exec_emits h h1 h2 with rfl | ⟨p, rfl | ⟨k, hb, rfl⟩⟩
  · exact .inl ⟨rfl, rfl, rfl, rfl⟩
  · obtain ⟨hbusy, hdone⟩ := settle_flags h15 p (s.afterSamples p.samples)
    obtain ⟨-, -, -, -, -, -, -, -, -, -, hfault, hfcode⟩ := settle_keeps i p (s.afterSamples p.samples)
    exact .inl ⟨hbusy, hdone, hfault, hfcode⟩
  · exact .inr ⟨hb, rfl, rfl, rfl, rfl⟩

/-- Settles O38: the listed instructions are those that leave the position. -/
theorem onlyStepsAndStartMovePosition : Obligations.OnlyStepsAndStartMovePosition := by
  intro i s t h hlist
  have hi : leavesPosition i = true := by
    rcases hlist with rfl | rfl | ⟨_, rfl⟩ | rfl | rfl | rfl | rfl | ⟨_, rfl⟩ | ⟨_, rfl⟩ | ⟨_, rfl⟩ | rfl <;> rfl
  rcases exec_of_leavesPosition hi h with rfl | ⟨p, c, rfl⟩ | ⟨p, k, -, rfl⟩ <;> exact ⟨rfl, rfl⟩

/-! ### The ports -/

/-- Settles O39: each write, while BUSY = 1 and while BUSY = 0. -/
theorem parameterWritesAreIgnoredWhileBusy : Obligations.ParameterWritesAreIgnoredWhileBusy := by
  intro s a n v p
  refine ⟨rfl, fun hb => ⟨?_, ?_, ?_, writeCtrl_busy v hb⟩, fun hb => ⟨?_, ?_, ?_, fun h0 => ?_, fun h0 => ?_⟩⟩
  · exact congrArg Host.Outcome.next (writeStartAddr_busy a hb)
  · exact congrArg Host.Outcome.next (writeProgLen_busy a hb)
  · exact congrArg Host.Outcome.next (writeNameLen_busy n hb)
  · exact congrArg Host.Outcome.next (writeStartAddr_idle a hb)
  · exact congrArg Host.Outcome.next (writeProgLen_idle a hb)
  · exact congrArg Host.Outcome.next (writeNameLen_idle n hb)
  · refine (writeCtrl_eq v s).trans ?_
    rw [h0, writeMode_idle _ hb]
    rfl
  · refine (writeCtrl_eq v s).trans ?_
    rw [h0]
    rfl

/-- CTRL: START reads 0, MODE stands in bit 1 and the reserved bits are 0. -/
theorem readCtrl_bits (s : State) : (readCtrl s).getLsbD 0 = false ∧
    ((readCtrl s).getLsbD 1 = true ↔ s.mode = .basic) ∧ (readCtrl s).extractLsb' 2 30 = 0 := by
  unfold readCtrl
  cases s.mode <;> decide

/-- STATUS: the fields stand side by side, each above the ones that follow it. -/
theorem readStatus_bits (s : State) : (readStatus s).getLsbD 0 = s.busy ∧ (readStatus s).getLsbD 1 = s.done ∧
    (readStatus s).getLsbD 2 = s.fault ∧ (readStatus s).extractLsb' 3 2 = s.fcode ∧
    (readStatus s).extractLsb' 5 27 = 0 := by
  unfold readStatus
  refine ⟨?busy, ?done, ?fault, ?fcode, ?reserved⟩
  case busy | done | fault =>
    simp only [BitVec.getLsbD_append]
    simp
  all_goals
    iterate 3 rw [BitVec.extractLsb'_append_eq_of_le (by decide)]
  case fcode => exact BitVec.extractLsb'_append_eq_right
  case reserved => exact BitVec.extractLsb'_append_eq_left

/-- Settles O41: each port is its fields side by side. -/
theorem portBitsReadAsListed : Obligations.PortBitsReadAsListed := fun s =>
  have hupc : (readUpc s).extractLsb' 16 4 = s.stepNo ∧ (readUpc s).extractLsb' 0 16 = s.idx :=
    ⟨BitVec.extractLsb'_append_eq_left, BitVec.extractLsb'_append_eq_right⟩
  ⟨readCtrl_bits s, readStatus_bits s, hupc, rfl, rfl⟩

/-! ### Which instruction a step runs -/

/-- An act of the host that is alone in its instant is the whole step. -/
theorem step_of_act {s : State} {a : HostAct} {rest : List Moment}
    (h : s.inbox = ⟨false, .keep, some a, false⟩ :: rest) : step s = runAct a { s with inbox := rest } :=
  (step_of_waiting h).trans (runMoment_ofAct a _)

/-- A word given to a free modulator runs the instruction it names. -/
theorem driveModulator_of_decode {w : PortWord} {i : Instr} {s : State} (hb : s.busy = false)
    (hd : s.done = false) (hf : s.fault = false) (h : decode w = .ok i) : driveModulator w s = exec i s :=
  (driveModulator_of_free hb hd hf).trans (runWord_of_decode s h)

/-- A write of CTRL that names a command runs it. -/
theorem writeCtrl_of_decode {v : BitVec 32} {i : Instr} (s : State)
    (h : decode (.ctrl (v.extractLsb' 0 2)) = .ok i) : writeCtrl v s = exec i s := by
  simp only [writeCtrl, h]

/-- An act that goes to no port gives the modulator a word. -/
theorem runAct_of_not_port {a : HostAct} (h : a.isPort = false) (s : State) :
    ∃ w, runAct a s = driveModulator w s := by
  cases a with
  | modcmd w | cell w | frame w | key w => exact ⟨_, rfl⟩
  | _ => cases h

/-- Settles O15: the core's own step is IDLE while it is idle or faulted. -/
theorem idleCoreChangesNothing : Obligations.IdleCoreChangesNothing :=
  fun _ => ⟨rfl, fun hin hb h => (step_of_quiet hin).trans (engineStep_idle hb h)⟩

/-- Settles O33: each item is read off the reset state. -/
theorem resetStateHoldsItsValues : Obligations.ResetStateHoldsItsValues :=
  ⟨rfl, rfl, rfl, rfl, rfl, rfl, rfl, rfl, rfl, rfl, rfl, rfl, rfl⟩

/-- Settles O43: the core's own step and each act of the host, through the word's decoding. -/
theorem stepRunsTheDecodedInstruction : Obligations.StepRunsTheDecodedInstruction := by
  intro s i rest
  refine ⟨?running, ?idle, ?command, fun hb hd hf => ⟨?modcmd, ?cell, ?frame, ?key⟩, ?refused⟩
  case running =>
    intro hin hb hk hdec
    cases hdec
    exact (step_of_quiet hin).trans (engineStep_running hb hk)
  case idle =>
    intro hin hb h hdec
    cases hdec
    exact (step_of_quiet hin).trans (engineStep_idle hb h)
  case command => exact fun v hin hdec => (step_of_act hin).trans (writeCtrl_of_decode _ hdec)
  case refused =>
    intro a ha hin h
    obtain ⟨w, hw⟩ := runAct_of_not_port ha { s with inbox := rest }
    exact (step_of_act hin).trans (hw.trans (driveModulator_refused h))
  all_goals exact fun w hin hdec => (step_of_act hin).trans (driveModulator_of_decode hb hd hf hdec)

end Sys2Proof.Machine
end

section
/-! PROOFS. The host's memories: what a byte placed or taken away leaves to read, and when the host may; and the
length and levels of the tape they give. -/

namespace Sys2Proof.Machine

/-! ### The tape's length -/

@[simp] theorem leader_length : leader.length = 57600 := by
  simp only [leader, List.length_flatten, List.map_replicate, cell_length, List.sum_replicate_nat]

/-- Each byte of the wire takes 176 samples. -/
theorem length_flatMap_frame (bs : List Byte) : (bs.flatMap frame).length = bs.length * 176 := by
  simp only [List.length_flatMap, frame_length, List.map_const', List.sum_replicate_nat]

/-- The header record is 24 bytes (R88). -/
theorem wireHeader_length (s : State) : (wireHeader s).length = 24 := by
  simp [wireHeader, headerSummed, nameField, bigEndian]

/-- The data record is the program's bytes, its key-code, its checksum and two dummies. -/
theorem wireData_length (s : State) : (wireData s).length = s.progLen.toNat + 4 := by
  simp [wireData, image]

/-! ### The tape's levels -/

/-- A stretch of signal: no `MID` sample, and `HIGH` as often as `LOW` (R84). -/
structure Balanced (xs : List Sample) : Prop where
  noMid : xs.count 0x80 = 0
  even : xs.count 0xFF = xs.count 0x00

theorem Balanced.append {xs ys : List Sample} (hx : Balanced xs) (hy : Balanced ys) : Balanced (xs ++ ys) :=
  ⟨by rw [List.count_append, hx.noMid, hy.noMid], by rw [List.count_append, List.count_append, hx.even, hy.even]⟩

/-- Stretches of signal one after another are one. -/
theorem balanced_flatten {xss : List (List Sample)} (h : ∀ xs ∈ xss, Balanced xs) : Balanced xss.flatten := by
  induction xss with
  | nil => exact ⟨rfl, rfl⟩
  | cons xs rest ih =>
    exact (h xs List.mem_cons_self).append (ih fun ys hy => h ys (List.mem_cons_of_mem xs hy))

/-- A bit cell is eight samples `HIGH` and eight `LOW`, whichever bit it carries (R82, R83). -/
theorem balanced_cell (v : Bool) : Balanced (cell v) := by
  cases v <;> exact ⟨by decide, by decide⟩

theorem balanced_leader : Balanced leader :=
  balanced_flatten fun _ h => List.eq_of_mem_replicate h ▸ balanced_cell true

theorem balanced_frame (b : Byte) : Balanced (frame b) :=
  balanced_flatten fun _ h => by
    obtain ⟨v, -, rfl⟩ := List.mem_map.1 h
    exact balanced_cell v

theorem balanced_flatMap_frame (bs : List Byte) : Balanced (bs.flatMap frame) :=
  balanced_flatten fun _ h => by
    obtain ⟨b, -, rfl⟩ := List.mem_map.1 h
    exact balanced_frame b

/-- A silence has neither `HIGH` nor `LOW` (R86). -/
theorem silence_even (n : Nat) :
    (List.replicate n (0x80 : Sample)).count 0xFF = (List.replicate n (0x80 : Sample)).count 0x00 := by
  rw [List.count_replicate, List.count_replicate]
  rfl

/-- Settles O53: the `MID` samples are the three silences, and leaders and records are balanced cells. -/
theorem tapeLengthAndLevels : Obligations.TapeLengthAndLevels := by
  intro s
  have hl := balanced_leader
  have hh := balanced_flatMap_frame (wireHeader s)
  have hd := balanced_flatMap_frame (wireData s)
  unfold tape
  refine ⟨?length, ?mid, ?even⟩
  case length =>
    simp only [List.length_append, List.length_replicate, leader_length, length_flatMap_frame, wireHeader_length,
      wireData_length]
    omega
  case mid => simp only [List.count_append, List.count_replicate_self, hl.noMid, hh.noMid, hd.noMid]
  case even => simp only [List.count_append, silence_even, hl.even, hh.even, hd.even]

/-! ### Reads after writes -/

/-- Settles O46: the memory's own laws. -/
theorem memoryReadsWhatWasWritten : Obligations.MemoryReadsWhatWasWritten := fun m a _ v =>
  ⟨Memory.read_write_same m a v, Memory.read_write_other m v, Memory.wf_write a v⟩

/-! ### What the host may place and take away -/

/-- A byte no run uses: the core is idle, or PROG_LEN ends before it (R63). -/
theorem usesProg_eq_false {i : Nat} {s : State} (h : s.busy = false ∨ s.progLen.toNat ≤ i) :
    usesProg i s = false := by
  rcases h with hb | hi
  · simp [usesProg, hb]
  · exact Bool.and_eq_false_imp.2 fun _ => decide_eq_false (Nat.not_lt.2 hi)

/-- A run uses the bytes of PROG below PROG_LEN (R63). -/
theorem usesProg_eq_true {i : Nat} {s : State} (hb : s.busy = true) (hi : i < s.progLen.toNat) :
    usesProg i s = true :=
  Bool.and_eq_true_iff.2 ⟨hb, decide_eq_true hi⟩

/-- A byte of NAME no run uses: the core is idle, or NAME_LEN or the port's sixteen indices end before it (R63). -/
theorem usesName_eq_false {i : Nat} {s : State} (h : s.busy = false ∨ min s.nameLen 16 ≤ i) :
    usesName i s = false := by
  rcases h with hb | hi
  · simp [usesName, hb]
  · exact Bool.and_eq_false_imp.2 fun _ => decide_eq_false (Nat.not_lt.2 hi)

/-- A run uses the bytes of NAME below both bounds (R63). -/
theorem usesName_eq_true {i : Nat} {s : State} (hb : s.busy = true) (hi : i < min s.nameLen 16) :
    usesName i s = true :=
  Bool.and_eq_true_iff.2 ⟨hb, decide_eq_true hi⟩

/-- An unused byte of PROG is placed. -/
theorem placeProg_of_unused {i : Half} {s : State} (b : Byte) (h : usesProg i.toNat s = false) :
    placeProg i b s = .next { s with prog := Memory.write s.prog i.toNat b } :=
  if_neg (by simp [h])

/-- Changing a used byte of PROG is refused. -/
theorem placeProg_of_change {i : Half} {b : Byte} {s : State} (hu : usesProg i.toNat s = true)
    (hr : Memory.read s.prog i.toNat ≠ some b) : placeProg i b s = .refused .inputChangedDuringRun :=
  if_pos (by simp [hu, hr])

/-- An unused byte of NAME is placed. -/
theorem placeName_of_unused {i : Nat} {s : State} (b : Byte) (h : usesName i s = false) :
    placeName i b s = .next { s with name := Memory.write s.name i b } :=
  if_neg (by simp [h])

/-- Changing a used byte of NAME is refused. -/
theorem placeName_of_change {i : Nat} {b : Byte} {s : State} (hu : usesName i s = true)
    (hr : Memory.read s.name i ≠ some b) : placeName i b s = .refused .inputChangedDuringRun :=
  if_pos (by simp [hu, hr])

/-- Bytes of PROG from an index on, none of them used, are taken away. -/
theorem truncateProg_of_unused {n : Nat} {s : State} (h : ∀ i, n ≤ i → usesProg i s = false) :
    truncateProg n s = .next { s with prog := Memory.truncate s.prog n } :=
  if_neg (by simpa using fun i b _ hi => h i hi)

/-- Taking away a listed byte that the run uses is refused. -/
theorem truncateProg_of_used {n j : Nat} {s : State} (hn : n ≤ j) (hu : usesProg j s = true)
    (hr : (Memory.read s.prog j).isSome) : truncateProg n s = .refused .inputChangedDuringRun := by
  obtain ⟨c, hc, rfl⟩ := List.mem_map.1 ((Memory.isSome_read_iff s.prog j).1 hr)
  exact if_pos (List.any_eq_true.2 ⟨c, hc, by simp [hn, hu]⟩)

/-- Settles O40: whether the run uses the byte decides, and the memory's laws say what is read afterwards. -/
theorem usedInputsMustStayStable : Obligations.UsedInputsMustStayStable := by
  intro s i j n b
  refine ⟨?progChanged, ?nameChanged, ?progPlaced, ?namePlaced, ?progTaken, ?progTruncated⟩
  case progChanged => exact fun hb hi => placeProg_of_change (usesProg_eq_true hb hi)
  case nameChanged => exact fun hb hj => placeName_of_change (usesName_eq_true hb hj)
  case progPlaced =>
    exact fun h => ⟨_, placeProg_of_unused b (usesProg_eq_false h), Memory.read_write_same _ _ b,
      fun _ => Memory.read_write_other _ b⟩
  case namePlaced =>
    exact fun h => ⟨_, placeName_of_unused b (usesName_eq_false h), Memory.read_write_same _ _ b,
      fun _ => Memory.read_write_other _ b⟩
  case progTaken => exact fun hb hn hj => truncateProg_of_used hn (usesProg_eq_true hb hj)
  case progTruncated =>
    intro h
    have hunused : ∀ k, n ≤ k → usesProg k s = false :=
      fun k hk => usesProg_eq_false (h.imp_right fun hl => hl.trans hk)
    exact ⟨_, truncateProg_of_unused hunused, Memory.read_truncate s.prog n⟩

end Sys2Proof.Machine
end

section
/-! PROOFS. Decoding and encoding, the words of the opcode table run next, the wire patterns and key-codes, and the
checksum byte of a record. -/

namespace Sys2Proof

/-! ### The fields of the words -/

theorem reverseByte_reverseByte (b : Byte) : reverseByte (reverseByte b) = b := by
  revert b; decide

/-- Two bits are both 1 exactly in the word 3. -/
theorem eq_three_iff (w : BitVec 2) : w = 3 ↔ w.getLsbD 1 = true ∧ w.getLsbD 0 = true := by
  revert w; decide

/-- One bit is 0 exactly in the word 0. -/
theorem eq_zero_iff_getLsbD (w : BitVec 1) : w = 0 ↔ w.getLsbD 0 = false := by
  revert w; decide

/-- The operation codes of R94. -/
theorem modcmdOp_cases (op : BitVec 2) : op = 0 ∨ op = 1 ∨ op = 2 ∨ op = 3 := by
  revert op; decide

/-- The word of `EMIT_BIT v` has `v` in bit 0. -/
theorem emitBitWord_bit (v : Bool) : (0#2 ++ 0#31 ++ BitVec.ofBool v).getLsbD 0 = v := by
  cases v <;> rfl

/-- A frame's word is its start bit, data bits and stop bits put together (R85). -/
theorem frameWord_fields (b : Byte) : (frameWord b).extractLsb' 10 1 = 0 ∧
    (frameWord b).extractLsb' 2 8 = reverseByte b ∧ (frameWord b).extractLsb' 0 2 = 3 := by
  refine ⟨?start, ?data, BitVec.extractLsb'_append_eq_right⟩
  case start =>
    rw [frameWord, BitVec.extractLsb'_append_eq_of_le (by omega)]
    exact BitVec.extractLsb'_append_eq_left
  case data =>
    rw [frameWord, BitVec.extractLsb'_append_eq_of_le (by omega)]
    exact BitVec.extractLsb'_append_eq_right

/-- A word of eleven bits with the start and stop bits of R85 is the frame of its data bits. -/
theorem frameWord_of_fields {w : BitVec 11} (hstart : w.extractLsb' 10 1 = 0) (hstop : w.extractLsb' 0 2 = 3) :
    frameWord (reverseByte (w.extractLsb' 2 8)) = w := by
  have hjoin : w.extractLsb' 10 1 ++ w.extractLsb' 2 8 ++ w.extractLsb' 0 2 = w := by
    have hhigh := BitVec.extractLsb'_append_extractLsb'_eq_extractLsb' (x := w) (len₂ := 1)
      (show 10 = 2 + 8 from rfl)
    rw [hhigh]
    exact BitVec.extractLsb'_append_extractLsb' (w := 9) (len := 2) (x := w)
  rw [hstart, hstop] at hjoin
  rw [frameWord, reverseByte_reverseByte]
  exact hjoin

/-! ### The decoder, one equation for each format -/

theorem decodeFrame_frameWord (b : Byte) : decodeFrame (frameWord b) = .ok (.frame b) := by
  obtain ⟨hstart, hdata, hstop⟩ := frameWord_fields b
  rw [decodeFrame, if_pos ⟨hstart, hstop⟩, hdata, reverseByte_reverseByte]

theorem decodeModcmd_bit {w : BitVec 34} (h : w.extractLsb' 32 2 = 0) :
    decodeModcmd w = .emitBit (w.getLsbD 0) := by
  rw [decodeModcmd, if_pos h]

theorem decodeModcmd_byte {w : BitVec 34} (h : w.extractLsb' 32 2 = 1) :
    decodeModcmd w = .emitByte (w.extractLsb' 0 8) := by
  rw [decodeModcmd, h]; rfl

theorem decodeModcmd_silence {w : BitVec 34} (h : w.extractLsb' 32 2 = 2) :
    decodeModcmd w = .emitSilence (w.extractLsb' 0 32) := by
  rw [decodeModcmd, h]; rfl

theorem decodeModcmd_reserved {w : BitVec 34} (h : w.extractLsb' 32 2 = 3) : decodeModcmd w = .modcmdReserved := by
  rw [decodeModcmd, h]; rfl

/-- A chain of alternatives decodes a word where one of its conditions holds. -/
theorem exists_ok_ite {P : Prop} [Decidable P] {i : Instr} {e : Except DecodeError Instr} :
    (∃ j, (if P then .ok i else e) = .ok j) ↔ P ∨ ∃ j, e = .ok j := by
  by_cases h : P <;> simp [h]

theorem not_exists_error_eq_ok (e : DecodeError) : ¬ ∃ i : Instr, Except.error e = .ok i := by
  rintro ⟨i, h⟩
  cases h

/-! ### Round trips -/

/-- Settles O1: each format's own equation, with the operand read back from its field of the word. -/
theorem decodeOfEncodeGivesInstructionBack : Obligations.DecodeOfEncodeGivesInstructionBack := by
  intro i
  cases i with
  | frame b => exact decodeFrame_frameWord b
  | emitBit v =>
    have hop := Laws.RowPattern.emitBit v
    exact congrArg Except.ok ((decodeModcmd_bit hop).trans (congrArg Instr.emitBit (emitBitWord_bit v)))
  | emitByte b =>
    have hop := Laws.RowPattern.emitByte b
    exact congrArg Except.ok
      ((decodeModcmd_byte hop).trans (congrArg Instr.emitByte BitVec.extractLsb'_append_eq_right))
  | emitSilence ms =>
    have hop := Laws.RowPattern.emitSilence ms
    exact congrArg Except.ok
      ((decodeModcmd_silence hop).trans (congrArg Instr.emitSilence BitVec.extractLsb'_append_eq_right))
  | _ => rfl

theorem encode_of_decodeStep (k : BitVec 4) : encode (decodeStep k) = .step k := by
  revert k; decide

/-- Off the modulator's command port every decodable word is the encoder's. -/
theorem encode_of_decode {p : PortWord} {i : Instr} (h : decode p = .ok i) (hp : ∀ w, p ≠ .modcmd w) :
    encode i = p := by
  cases p with
  | cell w =>
    simp only [decode, decodeCell] at h
    split_ifs at h with h1 h0 <;> cases h
    · rw [h1]; rfl
    · rw [h0]; rfl
  | frame w =>
    simp only [decode, decodeFrame] at h
    split_ifs at h with hbits
    obtain ⟨hstart, hstop⟩ := hbits
    cases h
    exact congrArg PortWord.frame (frameWord_of_fields hstart hstop)
  | key w =>
    simp only [decode, decodeKey] at h
    split_ifs at h with hw hw hw hw <;> cases h <;> rw [hw] <;> rfl
  | modcmd w => exact absurd rfl (hp w)
  | ctrl w =>
    simp only [decode, decodeCtrl] at h
    split_ifs at h with hw hw <;> cases h <;> rw [hw] <;> rfl
  | step w =>
    cases h
    exact encode_of_decodeStep w

/-- The encoder's word of a decoded modulator command has the command's operation and the bits it reads. -/
theorem encode_of_decodeModcmd (w : BitVec 34) : ∃ w', encode (decodeModcmd w) = .modcmd w' ∧
    w'.extractLsb' 32 2 = w.extractLsb' 32 2 ∧
    (w.extractLsb' 32 2 = 0 → w'.getLsbD 0 = w.getLsbD 0) ∧
    (w.extractLsb' 32 2 = 1 → w'.extractLsb' 0 8 = w.extractLsb' 0 8) ∧
    (w.extractLsb' 32 2 = 2 → w' = w) := by
  rcases modcmdOp_cases (w.extractLsb' 32 2) with h | h | h | h
  · rw [decodeModcmd_bit h, h]
    exact ⟨_, rfl, Laws.RowPattern.emitBit _, fun _ => emitBitWord_bit _, nofun, nofun⟩
  · rw [decodeModcmd_byte h, h]
    exact ⟨_, rfl, Laws.RowPattern.emitByte _, nofun, fun _ => BitVec.extractLsb'_append_eq_right, nofun⟩
  · have hjoin : w.extractLsb' 32 2 ++ w.extractLsb' 0 32 = w :=
      BitVec.extractLsb'_append_extractLsb' (w := 2) (len := 32) (x := w)
    rw [decodeModcmd_silence h]
    rw [h] at hjoin
    exact ⟨w, congrArg PortWord.modcmd hjoin, rfl, by simp [h], by simp [h], fun _ => rfl⟩
  · rw [decodeModcmd_reserved h, h]
    exact ⟨_, rfl, Laws.RowPattern.modcmdReserved, nofun, nofun, nofun⟩

/-- Settles O2: the exact interfaces, then the modulator's commands by their operation. -/
theorem encodeOfDecodeGivesWordBack : Obligations.EncodeOfDecodeGivesWordBack :=
  ⟨fun _ _ => encode_of_decode, encode_of_decodeModcmd⟩

/-- Settles O3: each word is decoded by evaluation. -/
theorem tableWordsDecodeAsWritten : Obligations.TableWordsDecodeAsWritten := by
  unfold Obligations.TableWordsDecodeAsWritten
  decide

/-- Settles O4: each interface's alternatives are the table's words. -/
theorem wordsThatAreNoInstructionAreRefused : Obligations.WordsThatAreNoInstructionAreRefused := by
  refine ⟨fun w => ?key, fun w => ?ctrl, fun w => ?frame, fun w => ?cell⟩
  case key => simp only [decode, decodeKey, exists_ok_ite, not_exists_error_eq_ok, or_false]
  case cell => simp only [decode, decodeCell, exists_ok_ite, not_exists_error_eq_ok, or_false]
  case ctrl =>
    have hstart : ∀ v : BitVec 2, v = 1 ∨ v = 3 ↔ v.getLsbD 0 = true := by decide
    simp only [decode, decodeCtrl, exists_ok_ite, not_exists_error_eq_ok, or_false]
    exact hstart w
  case frame =>
    simp only [decode, decodeFrame, exists_ok_ite, not_exists_error_eq_ok, or_false, eq_three_iff,
      eq_zero_iff_getLsbD, BitVec.getLsbD_extractLsb']
    simp

end Sys2Proof

namespace Sys2Proof.Machine

/-- Settles O8: the operation 3 decodes to the reserved command, which refuses. -/
theorem reservedCommandIsRefused : Obligations.ReservedCommandIsRefused :=
  ⟨fun _ h => congrArg Except.ok (decodeModcmd_reserved h), fun _ => rfl⟩

/-! ### Wire patterns and key-codes -/

/-- A sink that takes a frame takes the byte's samples. -/
theorem SinkTakes.byte {s : State} (h : SinkTakes 176 s) (b : Byte) :
    SinkTakes (Prim.byte b).samples.length s := by
  rwa [Prim.length_samples_byte]

/-- A tick's bit of a frame is a bit of the number `0x600 + 2 * b` (R85, R116). -/
theorem frameBit_eq_testBit (b : Byte) {j : Nat} (hj : j < 11) :
    frameBit b (BitVec.ofNat 4 j) = (0x600 + 2 * b.toNat).testBit j := by
  have hj4 : (BitVec.ofNat 4 j).toNat = j := by rw [BitVec.toNat_ofNat]; omega
  have hF : (0x600#11 + 2#11 * b.zeroExtend 11).toNat = 0x600 + 2 * b.toNat := by
    bv_omega
  rw [frameBit, hj4, BitVec.getLsbD, hF]

/-- A frame is the cells of the bits of `0x600 + 2 * b`, lowest first (R85). -/
theorem frame_eq_cells (b : Byte) :
    frame b = (List.range 11).flatMap fun i => cell ((0x600 + 2 * b.toNat).testBit i) := by
  rw [frame, frameBits_eq_ticks, List.flatMap_map]
  refine List.flatMap_congr fun j hj => ?_
  rw [frameBit_eq_testBit b (List.mem_range.1 hj)]

/-- Settles O9: each pattern emits its primitive's samples and settles no register. -/
theorem wirePatternsAppendTheirSamples : Obligations.WirePatternsAppendTheirSamples := by
  intro s
  refine ⟨fun h => ⟨exec_of_takes (i := .cell1) rfl h, exec_of_takes (i := .cell0) rfl h⟩, fun b h => ?_⟩
  rw [← frame_eq_cells]
  exact exec_of_takes (i := .frame b) rfl (h.byte b)

/-- Settles O10: each key-code issues its byte, and clearing CKSUM undoes the byte's own write. -/
theorem keyCodesAreSentAndLeaveChecksumZero : Obligations.KeyCodesAreSentAndLeaveChecksumZero := by
  intro s h
  exact ⟨exec_of_takes (i := .keyHeaderMc) rfl (h.byte 0x26), exec_of_takes (i := .keyDataMc) rfl (h.byte 0x27),
    exec_of_takes (i := .keyHeaderBasic) rfl (h.byte 0x16), exec_of_takes (i := .keyDataBasic) rfl (h.byte 0x17)⟩

/-! ### The next instruction -/

/-- The core has no step of its own at a position that contradicts BUSY. -/
theorem engineStep_inconsistent {s : State}
    (h : (s.busy = true ∧ s.stepNo = 0) ∨ (s.busy = false ∧ s.fault = false ∧ s.stepNo ≠ 0)) :
    engineStep s = .fault .inconsistentPosition := by
  simp only [engineStep, fetch_inconsistent h]

/-- Settles O44: with no instant waiting the step is the core's own. -/
theorem inconsistentPositionIsStuck : Obligations.InconsistentPositionIsStuck :=
  fun _ hin h => (step_of_quiet hin).trans (engineStep_inconsistent h)

/-- What `withStepNo` sets: nothing waits, STEP is `k`, and the core runs unless `k` is 0. -/
theorem withStepNo_fetch (s : State) (k : BitVec 4) :
    (s.withStepNo k).inbox = [] ∧ (s.withStepNo k).stepNo = k ∧ (s.withStepNo k).busy = (k != 0) := by
  unfold State.withStepNo
  split
  · rename_i h
    rw [h.1]
    exact ⟨rfl, rfl, rfl⟩
  · exact ⟨rfl, rfl, rfl⟩

/-- A step of the engine placed at STEP is run next. -/
theorem step_withStepNo (s : State) (k : BitVec 4) :
    step (s.withStepNo k) = exec (decodeStep k) (s.withStepNo k) := by
  obtain ⟨hin, hstep, hbusy⟩ := withStepNo_fetch s k
  rw [step_of_quiet hin]
  by_cases hk : k = 0
  · subst hk
    exact engineStep_idle hbusy (.inr hstep)
  · rw [engineStep_running (hbusy.trans (bne_iff_ne.2 hk)) (by rwa [hstep]), hstep]

/-- The command bits of a written CTRL value are the table word's. -/
theorem extractLsb'_zeroExtend_ctrl (v : BitVec 2) : (v.zeroExtend 32).extractLsb' 0 2 = v := by
  revert v; decide

/-- The host's only waiting act is the next step. -/
theorem step_withAct (s : State) (a : HostAct) : step (s.withAct a) = runAct a { s with inbox := [] } :=
  step_of_act (s := s.withAct a) rfl

/-- The modulator of a freed core is free. -/
theorem freed_flags (s : State) : s.freed.busy = false ∧ s.freed.done = false ∧ s.freed.fault = false := by
  unfold State.freed
  split
  · rename_i h
    simpa [modulatorFree, and_assoc] using h
  · exact ⟨rfl, rfl, rfl⟩

/-- A word given to the modulator of a freed core runs the instruction it names. -/
theorem driveModulator_freed {w : PortWord} {i : Instr} (s : State) (h : decode w = .ok i) :
    driveModulator w { s.freed with inbox := [] } = exec i { s.freed with inbox := [] } := by
  obtain ⟨hb, hd, hf⟩ := freed_flags s
  exact driveModulator_of_decode hb hd hf h

/-- A table word names an instruction through the word of its interface. -/
theorem tableWord_of_decodeTableWord {nbits w : Nat} {i : Instr} (h : decodeTableWord nbits w = some i) :
    ∃ p, tableWord nbits w = some p ∧ decode p = .ok i := by
  unfold decodeTableWord at h
  split at h
  · rename_i p hp
    refine ⟨p, hp, ?_⟩
    cases hd : decode p with
    | ok j => rw [hd] at h; cases h; rfl
    | error e => rw [hd] at h; cases h
  · cases h

/-- Settles O45: a step is fetched from STEP, a command from CTRL, and every other word from the modulator. -/
theorem placedTableWordIsRunNext : Obligations.PlacedTableWordIsRunNext := by
  intro s nbits w i h
  obtain ⟨p, hp, hdec⟩ := tableWord_of_decodeTableWord h
  simp only [State.withFetchWord, hp]
  cases p with
  | step k =>
    cases hdec
    have hin := (withStepNo_fetch s k).1
    rw [step_withStepNo, ← hin]
  | ctrl v =>
    exact (step_withAct s _).trans (writeCtrl_of_decode _ (by rwa [extractLsb'_zeroExtend_ctrl]))
  | modcmd v | cell v | frame v | key v => exact (step_withAct s.freed _).trans (driveModulator_freed s hdec)

/-! ### The checksum byte of a record -/

/-- Steps 7 and 13 send the negation of CKSUM, read before, and leave 0 (R148, R154). -/
theorem exec_checksumStep {i : Instr} {s : State} (hi : i = .s7CksH ∨ i = .s13CksD) (h : SinkTakes 176 s) :
    ∃ t, exec i s = .next t ∧ t.cksum = 0 ∧ t.out = s.out ++ frame (neg8 s.cksum) := by
  rcases hi with rfl | rfl <;>
    exact ⟨_, exec_of_takes rfl (h.byte (neg8 s.cksum)), add_neg8 s.cksum, rfl⟩

/-- Settles O50: the run's invariant says what CKSUM holds where the checksum byte is sent. -/
theorem parityByteNegatesTheRecordSum : Obligations.ParityByteNegatesTheRecordSum := by
  intro s hinv hb hsink
  have hsum := hinv.recordSum hb
  refine ⟨fun h7 => ?header, fun h13 => ?data⟩
  case header =>
    have hck : s.cksum = (headerSummed s).sum := by simpa [h7, runningChecksum] using hsum
    rw [h7, ← headerSummed, ← hck]
    exact exec_checksumStep (.inl rfl) hsink
  case data =>
    have hck : s.cksum = (image s).sum := by simpa [h13, runningChecksum] using hsum
    rw [h13, ← hck]
    exact exec_checksumStep (.inr rfl) hsink

end Sys2Proof.Machine
end

section
/-! PROOFS. The modulator: what each command appends, that frames of different bytes differ, and that ticks refine
the step. -/

namespace Sys2Proof.Machine

/-! ### The commands -/

/-- Settles O5: the operation 0 decodes to the bit, whose primitive is its cell and writes no register. -/
theorem emitBitAppendsItsCell : Obligations.EmitBitAppendsItsCell :=
  ⟨fun _ h => congrArg Except.ok (decodeModcmd_bit h), fun _ h =>
    ⟨exec_of_takes (i := .emitBit true) rfl h, exec_of_takes (i := .emitBit false) rfl h⟩⟩

/-- A frame is the cells of a start bit, of the byte from its lowest bit on, and of two stop bits (R112). -/
theorem frame_eq_start_data_stop (b : Byte) : frame b =
    cell false ++ ((List.range 8).flatMap fun i => cell (b.getLsbD i)) ++ cell true ++ cell true := by
  simp [frame, frameBits, List.range_succ]

/-- The 8-bit sum as R112 writes it. -/
theorem byte_add_eq (x y : Byte) : x + y = BitVec.ofNat 8 ((x.toNat + y.toNat) % 256) := by
  apply BitVec.eq_of_toNat_eq
  simp [BitVec.toNat_add]

/-- Settles O6: the operation 1 decodes to the byte, whose primitive is its frame and adds it to CKSUM. -/
theorem emitByteSendsFrameAndAddsToChecksum : Obligations.EmitByteSendsFrameAndAddsToChecksum := by
  refine ⟨fun _ h => congrArg Except.ok (decodeModcmd_byte h), fun b s h => ?_⟩
  rw [← frame_eq_start_data_stop, ← byte_add_eq]
  exact exec_of_takes (i := .emitByte b) rfl (h.byte b)

/-- A primitive without a meaning is refused (R113). -/
theorem issue_of_not_admitted {p : Prim} {after : State → State} (s : State) (h : ¬ p.admitted = true) :
    issue p after s = .refused .silenceTooLong :=
  if_neg h

/-- Settles O7: the operation 2 decodes to the silence, which is admitted exactly below the limit. -/
theorem emitSilenceAppendsMidSamples : Obligations.EmitSilenceAppendsMidSamples := by
  refine ⟨fun _ h => congrArg Except.ok (decodeModcmd_silence h), fun ms s => ⟨fun hlt h => ?_, fun hge => ?_⟩⟩
  · exact exec_of_takes (i := .emitSilence ms) (if_pos hlt) (by rwa [Prim.length_samples_silence])
  · exact issue_of_not_admitted s fun ha => Nat.not_lt.2 hge ((Prim.admitted_silence_iff ms).1 ha)

/-! ### Frames tell bytes apart -/

theorem cell_injective {v w : Bool} (h : cell v = cell w) : v = w := by
  revert v w; decide

/-- All cells have one length, so a run of cells can be cut into them in one way only. -/
theorem flatMap_cell_injective {xs ys : List Bool} (h : xs.flatMap cell = ys.flatMap cell) : xs = ys := by
  induction xs generalizing ys with
  | nil =>
    cases ys with
    | nil => rfl
    | cons w ws => exact absurd (congrArg List.length h) (by simp; omega)
  | cons v vs ih =>
    cases ys with
    | nil => exact absurd (congrArg List.length h) (by simp)
    | cons w ws =>
      obtain ⟨hcell, hrest⟩ := List.append_inj h (by simp)
      rw [cell_injective hcell, ih hrest]

/-- The eight data bits of a frame are the byte. -/
theorem frameBits_injective {a b : Byte} (h : frameBits a = frameBits b) : a = b := by
  simp only [frameBits, List.cons.injEq, true_and, and_true] at h
  obtain ⟨h0, h1, h2, h3, h4, h5, h6, h7⟩ := h
  refine BitVec.eq_of_getLsbD_eq fun i hi => ?_
  interval_cases i <;> assumption

/-- Settles O11: the cells of a frame give its bits back, and these the byte. -/
theorem framesOfDifferentBytesDiffer : Obligations.FramesOfDifferentBytesDiffer := fun _ _ h =>
  frameBits_injective (flatMap_cell_injective h)

/-! ### One tick of a primitive in progress -/

/-- `s` with `k` samples of `p` out and the next one still to come (R115 to R117). -/
def State.emitting (p : Prim) (k : Nat) (s : State) : State :=
  { s with out := s.out ++ p.samples.take k, ticks := p.frozen k, sinkRoom := s.sinkRoom.map (fun r => r - k) }

/-- A frame is its 176 tick samples: sample `k` is sample `k mod 16` of cell `k / 16` (R116). -/
theorem frame_eq_ticks (b : Byte) : frame b =
    (List.range 176).map fun k => cellSample (frameBit b (BitVec.ofNat 4 (k / 16))) (BitVec.ofNat 4 k) := by
  rw [frame, frameBits_eq_ticks, List.flatMap_map, show cell = _ from funext cell_eq_ticks]
  rfl

/-- The sample of a tick is the primitive's own (R115 to R117). -/
theorem Prim.tickSample_frozen (p : Prim) {k : Nat} (hk : k < p.samples.length) :
    p.tickSample (p.frozen k) = p.samples[k] := by
  cases p with
  | bit v => simp [Prim.samples, cell_eq_ticks, Prim.tickSample, Prim.frozen]
  | byte b => simp [Prim.samples, frame_eq_ticks, Prim.tickSample, Prim.frozen]
  | silence ms => simp [Prim.samples, Prim.tickSample]

/-- The count of an admitted silence fits its register. -/
theorem silenceCount_lt {ms : BitVec 32} (h : (Prim.silence ms).admitted = true) :
    silenceCount ms < 4294967296 := by
  have hlt : ms.toNat * 192 < 4294967296 := (Prim.admitted_silence_iff ms).1 h
  show ms.toNat * 192 / 10 < 4294967296
  omega

/-- Before its last sample a tick moves the refinement registers on by one sample. -/
theorem Prim.ticked_more {p : Prim} {k : Nat} {u : State} (ha : p.admitted = true) (hk : k + 1 < p.samples.length)
    (hu : u.ticks = p.frozen k) : p.ticked u = .more { u with ticks := p.frozen (k + 1) } := by
  cases p with
  | bit v =>
    rw [Prim.length_samples_bit] at hk
    have hlast : BitVec.ofNat 4 k ≠ 15#4 := by bv_omega
    simp [Prim.ticked, bitTicked, hu, Prim.frozen, hlast, BitVec.ofNat_add]
  | byte b =>
    rw [Prim.length_samples_byte] at hk
    by_cases hcell : k % 16 = 15
    · have hpos : BitVec.ofNat 4 k = 15#4 := by bv_omega
      have hlast : BitVec.ofNat 4 (k / 16) ≠ 10#4 := by bv_omega
      have hnext : BitVec.ofNat 4 (k + 1) = 0#4 := by bv_omega
      have hbit : (k + 1) / 16 = k / 16 + 1 := by omega
      simp [Prim.ticked, byteTicked, hu, Prim.frozen, hpos, hlast, hnext, hbit, BitVec.ofNat_add]
    · have hpos : BitVec.ofNat 4 k ≠ 15#4 := by bv_omega
      have hbit : (k + 1) / 16 = k / 16 := by omega
      simp [Prim.ticked, byteTicked, hu, Prim.frozen, hpos, hbit, BitVec.ofNat_add]
  | silence ms =>
    have hlt := silenceCount_lt ha
    rw [Prim.length_samples_silence] at hk
    have hlast : BitVec.ofNat 32 (silenceCount ms - k) ≠ 1#32 := by bv_omega
    have hnext : BitVec.ofNat 32 (silenceCount ms - k) - 1#32 = BitVec.ofNat 32 (silenceCount ms - (k + 1)) := by
      bv_omega
    simp [Prim.ticked, silenceTicked, hu, Prim.frozen, hlast, hnext]

/-- At its last sample a tick makes the primitive's own writes and leaves the refinement registers 0 (R31). -/
theorem Prim.ticked_last {p : Prim} {k : Nat} {u : State} (hk : k + 1 = p.samples.length)
    (hu : u.ticks = p.frozen k) : p.ticked u = .finished (p.commit { u with ticks := Ticks.zero }) := by
  cases p with
  | bit v =>
    obtain rfl : k = 15 := by rw [Prim.length_samples_bit] at hk; omega
    simp [Prim.ticked, bitTicked, hu, Prim.frozen, Ticks.zero]
  | byte b =>
    obtain rfl : k = 175 := by rw [Prim.length_samples_byte] at hk; omega
    have hbit : BitVec.ofNat 4 (175 / Config.samplesPerBit) = 10#4 := rfl
    simp [Prim.ticked, byteTicked, hu, Prim.frozen, hbit, State.addCksum]
  | silence ms =>
    have hone : silenceCount ms - k = 1 := by rw [Prim.length_samples_silence] at hk; omega
    simp [Prim.ticked, silenceTicked, hu, Prim.frozen, hone, Ticks.zero]

/-- A tick whose sample the sink takes appends it and makes the tick's writes. -/
theorem tick_of_takes {p : Prim} {u : State} (h : SinkTakes 1 u) :
    tick p u = p.ticked (u.afterSamples [p.tickSample u.ticks]) := by
  simp [tick, emitOne, sinkStopsAt_of_takes h, State.afterSamples]

/-- A tick whose sample the sink does not take raises OutputUnwritable (R204). -/
theorem tick_of_full {p : Prim} {u : State} (hb : u.busy = true) (hr : u.sinkRoom = some 0) :
    tick p u = .failed (State.raise Config.fcodeOutputUnwritable u) := by
  simp [tick, emitOne, sinkStopsAt_of_short hb hr Nat.one_pos]

/-- A sink with room for sample `k` has it still when `k` samples are out. -/
theorem SinkTakes.emitting {s : State} {k : Nat} (h : SinkTakes (k + 1) s) (p : Prim) :
    SinkTakes 1 (s.emitting p k) := by
  intro hb r hr
  obtain ⟨r', hr', rfl⟩ := Option.map_eq_some_iff.1 hr
  have := h hb r' hr'
  omega

/-- One sample more: the stream of `k + 1` samples with the registers of `k`. -/
theorem afterSamples_emitting {p : Prim} {k : Nat} (s : State) (hk : k < p.samples.length) :
    (s.emitting p k).afterSamples [p.samples[k]] = { s.emitting p (k + 1) with ticks := p.frozen k } := by
  simp [State.emitting, State.afterSamples, Function.comp_def, Nat.sub_sub]

/-- A sample that the sink takes, before the last one. -/
theorem tick_emitting_more {p : Prim} {k : Nat} {s : State} (ha : p.admitted = true) (hk : k + 1 < p.samples.length)
    (hT : SinkTakes (k + 1) s) : tick p (s.emitting p k) = .more (s.emitting p (k + 1)) := by
  rw [tick_of_takes (hT.emitting p), show (s.emitting p k).ticks = p.frozen k from rfl,
    p.tickSample_frozen (by omega), afterSamples_emitting, Prim.ticked_more ha hk rfl]
  rfl

/-- The last sample, which the sink takes. -/
theorem tick_emitting_last {p : Prim} {k : Nat} {s : State} (hk : k + 1 = p.samples.length)
    (hT : SinkTakes p.samples.length s) (hz : s.ticks = Ticks.zero) :
    tick p (s.emitting p k) = .finished (p.commit (s.afterSamples p.samples)) := by
  rw [← hk] at hT
  rw [tick_of_takes (hT.emitting p), show (s.emitting p k).ticks = p.frozen k from rfl,
    p.tickSample_frozen (by omega), afterSamples_emitting, Prim.ticked_last hk rfl]
  simp [State.emitting, State.afterSamples, hk, hz]

/-- The sample at which the sink fails. -/
theorem tick_emitting_short {p : Prim} {k : Nat} {s : State} (hb : s.busy = true) (hr : s.sinkRoom = some k) :
    tick p (s.emitting p k) = .failed (s.unwritable p.samples k (p.frozen k)) := by
  rw [tick_of_full (u := s.emitting p k) hb (by simp [State.emitting, hr])]
  simp [State.emitting, State.unwritable, State.raise, hr]

/-! ### One tick of a step of the engine -/

/-- Issuing a primitive on its first tick. -/
def Prim.loaded (p : Prim) (s : State) : State := if p.unstarted s.ticks then { s with ticks := p.load } else s

/-- The outcome of a step's tick: its register writes follow the last sample. -/
def TickEnd.outcome (after : State → State) : TickEnd → Outcome
  | .more t => .next t
  | .finished t => .next (after t)
  | .failed t => .next t

/-- A tick of a step with its operand at hand is a tick of its primitive. -/
theorem tickStepOf_of_ok {prim : State → Except Refusal Prim} {after : State → State} {s : State} {p : Prim}
    (hp : prim s = .ok p) (ha : p.admitted = true) (hne : p.samples ≠ []) :
    tickStepOf prim after s = (tick p (p.loaded s)).outcome after := by
  simp only [tickStepOf, hp, ha, hne, if_true, if_false]
  rfl

/-- The first tick of a primitive loads its registers. -/
theorem Prim.loaded_of_zero (p : Prim) {s : State} (hz : s.ticks = Ticks.zero) : p.loaded s = s.emitting p 0 := by
  cases p <;> simp [Prim.loaded, Prim.unstarted, Prim.load, Prim.frozen, State.emitting, hz, Ticks.zero]

/-- Registers that read as unstarted while a sample is to come are those of the first tick. -/
theorem Prim.load_eq_frozen {p : Prim} {k : Nat} (ha : p.admitted = true) (hk : k < p.samples.length)
    (h : p.unstarted (p.frozen k) = true) : p.load = p.frozen k := by
  cases p with
  | bit v =>
    rw [Prim.length_samples_bit] at hk
    have hpos : BitVec.ofNat 4 k = 0#4 := of_decide_eq_true h
    obtain rfl : k = 0 := by bv_omega
    rfl
  | byte b =>
    rw [Prim.length_samples_byte] at hk
    obtain ⟨hp, hb⟩ := Bool.and_eq_true_iff.1 h
    have hpos : BitVec.ofNat 4 k = 0#4 := of_decide_eq_true hp
    have hbit : BitVec.ofNat 4 (k / 16) = 0#4 := of_decide_eq_true hb
    obtain rfl : k = 0 := by bv_omega
    rfl
  | silence ms =>
    have hlt := silenceCount_lt ha
    rw [Prim.length_samples_silence] at hk
    have hnone : BitVec.ofNat 32 (silenceCount ms - k) = 0#32 := of_decide_eq_true h
    bv_omega

/-- So a later tick loads nothing. -/
theorem Prim.loaded_emitting {p : Prim} {k : Nat} (s : State) (ha : p.admitted = true)
    (hk : k < p.samples.length) : p.loaded (s.emitting p k) = s.emitting p k := by
  unfold Prim.loaded
  split
  · rename_i h
    rw [Prim.load_eq_frozen ha hk h]
    rfl
  · rfl

/-! ### The steps of the engine, tick by tick -/

/-- Position `k` is the step with this operand and these register writes, as one step and tick by tick. -/
structure StepIs (k : BitVec 4) (prim : State → Except Refusal Prim) (after : State → State) : Prop where
  exec_eq : ∀ s, exec (decodeStep k) s = issueStep prim after s
  tick_eq : ∀ s : State, tickStep { s with busy := true, stepNo := k } =
    tickStepOf prim after { s with busy := true, stepNo := k }
  operand : ∀ {s p}, issuedPrim (decodeStep k) s = some p → prim s = .ok p

/-- An operand that is always there. -/
theorem ok_of_some_eq {p q : Prim} (h : some q = some p) : (Except.ok q : Except Refusal Prim) = .ok p :=
  congrArg Except.ok (Option.some.inj h)

/-- Every position of a run is one of the fifteen steps (R140). -/
theorem exists_stepIs {k : BitVec 4} (hk : k ≠ 0) : ∃ prim after, StepIs k prim after := by
  rcases stepNo_cases k with rfl | rfl | rfl | rfl | rfl | rfl | rfl | rfl | rfl | rfl | rfl | rfl | rfl | rfl | rfl |
    rfl
  · exact absurd rfl hk
  · exact ⟨s1Prim, s1After, fun _ => rfl, fun _ => rfl, ok_of_some_eq⟩
  · exact ⟨s2Prim, s2After, fun _ => rfl, fun _ => rfl, ok_of_some_eq⟩
  · exact ⟨s3Prim, s3After, fun _ => rfl, fun _ => rfl, fun h => ok_of_some_eq (by rw [headerKey_eq]; exact h)⟩
  · refine ⟨s4Prim, s4After, fun _ => rfl, fun _ => rfl, fun h => ?_⟩
    obtain ⟨hr, hp⟩ := Option.ite_none_right_eq_some.1 h
    exact (s4Prim_of_readable hr).trans (ok_of_some_eq hp)
  · exact ⟨s5Prim, s5After, fun _ => rfl, fun _ => rfl, ok_of_some_eq⟩
  · exact ⟨s6Prim, s6After, fun _ => rfl, fun _ => rfl, ok_of_some_eq⟩
  · exact ⟨s7Prim, s7After, fun _ => rfl, fun _ => rfl, ok_of_some_eq⟩
  · exact ⟨s8Prim, s8After, fun _ => rfl, fun _ => rfl, ok_of_some_eq⟩
  · exact ⟨s9Prim, s9After, fun _ => rfl, fun _ => rfl, ok_of_some_eq⟩
  · exact ⟨s10Prim, s10After, fun _ => rfl, fun _ => rfl, ok_of_some_eq⟩
  · exact ⟨s11Prim, s11After, fun _ => rfl, fun _ => rfl, fun h => ok_of_some_eq (by rw [dataKey_eq]; exact h)⟩
  · refine ⟨s12Prim, s12After, fun _ => rfl, fun _ => rfl, fun h => ?_⟩
    obtain ⟨hr, hp⟩ := Option.ite_none_right_eq_some.1 h
    exact (s12Prim_of_readable hr).trans (ok_of_some_eq hp)
  · exact ⟨s13Prim, s13After, fun _ => rfl, fun _ => rfl, ok_of_some_eq⟩
  · exact ⟨s14Prim, s14After, fun _ => rfl, fun _ => rfl, ok_of_some_eq⟩
  · exact ⟨s15Prim, s15After, fun _ => rfl, fun _ => rfl, ok_of_some_eq⟩

/-- A running core's tick is a tick of its step. -/
theorem StepIs.tickStep_eq {s : State} {prim : State → Except Refusal Prim} {after : State → State}
    (h : StepIs s.stepNo prim after) (hb : s.busy = true) : tickStep s = tickStepOf prim after s := by
  have heta : { s with busy := true, stepNo := s.stepNo } = s := by rw [← hb]
  rw [← heta]
  exact h.tick_eq s

/-- No step issues the silence without samples; the shortest is 10 ms (R142). -/
theorem issuedPrim_ne_silence_zero (k : BitVec 4) (s : State) : issuedPrim (decodeStep k) s ≠ some (.silence 0) := by
  rcases stepNo_cases k with rfl | rfl | rfl | rfl | rfl | rfl | rfl | rfl | rfl | rfl | rfl | rfl | rfl | rfl | rfl |
    rfl <;> simp [decodeStep, issuedPrim]

/-- Every other primitive has a sample. -/
theorem Prim.samples_ne_nil {p : Prim} (h : p ≠ .silence 0) : p.samples ≠ [] := by
  refine List.ne_nil_of_length_pos ?_
  cases p with
  | bit v => simp
  | byte b => simp
  | silence ms =>
    have hms : ms ≠ 0 := fun e => h (congrArg Prim.silence e)
    rw [Prim.length_samples_silence]
    show 0 < ms.toNat * 192 / 10
    bv_omega

/-- So every step's primitive has a sample. -/
theorem samples_ne_nil_of_issuedPrim {k : BitVec 4} {s : State} {p : Prim}
    (h : issuedPrim (decodeStep k) s = some p) : p.samples ≠ [] :=
  Prim.samples_ne_nil fun e => issuedPrim_ne_silence_zero k s (e ▸ h)

/-- No operand depends on OUT, the refinement registers or the sink. -/
theorem issuedPrim_emitting (i : Instr) (p : Prim) (k : Nat) (s : State) :
    issuedPrim i (s.emitting p k) = issuedPrim i s := by
  cases i <;> rfl

theorem runTicks_of_next {s t : State} (h : tickStep s = .next t) (n : Nat) : runTicks (n + 1) s = runTicks n t := by
  simp only [runTicks, h]

theorem runTicks_congr {s t : State} (h : tickStep s = tickStep t) (n : Nat) :
    runTicks (n + 1) s = runTicks (n + 1) t := by
  simp only [runTicks, h]

/-- The ticks of a core that does not run change nothing. -/
theorem runTicks_idle {s : State} (hb : s.busy = false) (n : Nat) : runTicks n s = .next s := by
  induction n with
  | zero => rfl
  | succ n ih =>
    have htick : tickStep s = .next s := by simp [tickStep, hb]
    rw [runTicks_of_next htick, ih]

section Ticks

variable {s : State} {p : Prim} {prim : State → Except Refusal Prim} {after : State → State}
  (hstep : StepIs s.stepNo prim after) (hb : s.busy = true) (hp : issuedPrim (decodeStep s.stepNo) s = some p)
  (ha : p.admitted = true)
include hstep hb hp ha

/-- A tick of the step is a tick of its primitive with the registers loaded. -/
theorem tickStep_eq_outcome : tickStep s = (tick p (p.loaded s)).outcome after := by
  rw [hstep.tickStep_eq hb, tickStepOf_of_ok (hstep.operand hp) ha (samples_ne_nil_of_issuedPrim hp)]

/-- So it is when `k` samples are out. -/
theorem tickStep_emitting {k : Nat} (hk : k < p.samples.length) :
    tickStep (s.emitting p k) = (tick p (s.emitting p k)).outcome after := by
  have h := tickStep_eq_outcome (s := s.emitting p k) hstep hb ((issuedPrim_emitting _ p k s).trans hp) ha
  rwa [Prim.loaded_emitting s ha hk] at h

/-- As many ticks as the sink takes samples lead to the state with these samples out. -/
theorem runTicks_emitting (hz : s.ticks = Ticks.zero) {k : Nat} (hk : k < p.samples.length) (hT : SinkTakes k s)
    (n : Nat) : runTicks (k + (n + 1)) s = runTicks (n + 1) (s.emitting p k) := by
  induction k generalizing n with
  | zero =>
    have hfirst : tickStep s = tickStep (s.emitting p 0) := by
      rw [tickStep_eq_outcome hstep hb hp ha, p.loaded_of_zero hz, tickStep_emitting hstep hb hp ha hk]
    rw [Nat.zero_add, runTicks_congr hfirst]
  | succ k ih =>
    have htick : tickStep (s.emitting p k) = .next (s.emitting p (k + 1)) := by
      rw [tickStep_emitting hstep hb hp ha (by omega), tick_emitting_more ha hk hT]
      rfl
    have hT' : SinkTakes k s := fun hb r hr => Nat.le_of_succ_le (hT hb r hr)
    rw [Nat.add_right_comm, Nat.add_assoc, ih (by omega) hT' (n + 1), runTicks_of_next htick]

/-- All ticks of a step whose samples the sink takes. -/
theorem runTicks_of_takes (hz : s.ticks = Ticks.zero) (hT : SinkTakes p.samples.length s) :
    runTicks p.samples.length s = .next (after (p.commit (s.afterSamples p.samples))) := by
  have hpos := List.length_pos_iff.2 (samples_ne_nil_of_issuedPrim hp)
  obtain ⟨k, hk⟩ := Nat.exists_eq_add_one.2 hpos
  have hlt : k < p.samples.length := by omega
  have htick : tickStep (s.emitting p k) = .next (after (p.commit (s.afterSamples p.samples))) := by
    rw [tickStep_emitting hstep hb hp ha hlt, tick_emitting_last hk.symm hT hz]
    rfl
  have hT' : SinkTakes k s := fun hb r hr => (hlt.trans_le (hT hb r hr)).le
  rw [hk, runTicks_emitting hstep hb hp ha hz hlt hT' 0, runTicks_of_next htick, runTicks]

/-- All ticks of a step that the sink cuts short: after the failing one the core does nothing. -/
theorem runTicks_of_short (hz : s.ticks = Ticks.zero) {k : Nat} (hr : s.sinkRoom = some k)
    (hk : k < p.samples.length) :
    runTicks p.samples.length s = .next (s.unwritable p.samples k (p.frozen k)) := by
  have htick : tickStep (s.emitting p k) = .next (s.unwritable p.samples k (p.frozen k)) := by
    rw [tickStep_emitting hstep hb hp ha hk, tick_emitting_short hb hr]
    rfl
  have hT : SinkTakes k s := fun _ r h => (Option.some.inj (hr.symm.trans h)).le
  obtain ⟨n, hn⟩ := Nat.exists_eq_add_of_lt hk
  rw [hn, Nat.add_assoc, runTicks_emitting hstep hb hp ha hz hk hT, runTicks_of_next htick, runTicks_idle rfl]

end Ticks

/-- Settles O55: the step's end decides between the two runs of ticks. -/
theorem ticksRefineTheStep : Obligations.TicksRefineTheStep := by
  intro s t p hquiet hb hk hz hp ht
  obtain ⟨prim, after, hstep⟩ := exists_stepIs hk
  rw [step_of_quiet hquiet, engineStep_running hb hk, hstep.exec_eq] at ht
  obtain ⟨q, hq, ha, hend⟩ := issueStep_cases ht
  obtain rfl : q = p := Except.ok.inj (hq.symm.trans (hstep.operand hp))
  rcases hend with ⟨hT, rfl⟩ | ⟨k, -, hr, hlt, rfl⟩
  · exact runTicks_of_takes hstep hb hp ha hz hT
  · exact runTicks_of_short hstep hb hp ha hz hr hlt

end Sys2Proof.Machine
end

section
/-! PROOFS. The order of a run: its positions, the primitive of each, the sum of R159 and the tape they give. -/

namespace Sys2Proof.Machine

/-! ### The position -/

theorem PositionLegal.stepNo_ne {s : State} (h : PositionLegal s) : s.stepNo ≠ 0 := h.1

theorem PositionLegal.idx_le {s : State} (h : PositionLegal s) : s.idx.toNat ≤ lastIdx s := h.2.1

/-- Settles O28: the register writes move the position by the table, and a primitive cut short faults. -/
theorem positionFollowsTransferTable : Obligations.PositionFollowsTransferTable := by
  intro s t hb hl ht hf
  obtain ⟨p, -, ⟨-, rfl⟩ | ⟨k, -, -, -, rfl⟩⟩ := exec_step_cases hl.stepNo_ne ht
  · refine ⟨settle_position p (u := s.afterSamples p.samples) hl, ?_⟩
    by_cases h15 : s.stepNo = 15
    · rw [h15]
      exact iff_of_true rfl rfl
    · obtain ⟨-, -, -, hlast⟩ := decodeStep_ne s.stepNo
      obtain ⟨hbusy, -⟩ := settle_flags (hlast h15) p (s.afterSamples p.samples)
      exact iff_of_false (by simp [hbusy, hb]) h15
  · cases hf

/-- The step that follows the last index of a step, for `MODE = 0` (R158). -/
def nextStep (s : State) : BitVec 4 := if s.stepNo = 11 ∧ s.progLen = 0 then 13 else s.stepNo + 1

/-- An index with two values stays in its step exactly at the first. -/
theorem ite_eq_zero_eq_lt_one {k : BitVec 4} {i : Half} (h : i.toNat ≤ 1) (q : BitVec 4 × Half) :
    (if i = 0 then (k, 1) else q) = if i.toNat < 1 then (k, i + 1) else q := by
  have h2 : i = 0 ∨ i = 1 := by bv_omega
  rcases h2 with rfl | rfl <;> rfl

/-- The table of R158 for `MODE = 0`: on in the step up to its last index, then to the start of the next one. -/
theorem nextPosition_eq {s : State} (hl : PositionLegal s) (hm : s.mode = .machineCode) (h15 : s.stepNo ≠ 15) :
    nextPosition s = if s.idx.toNat < lastIdx s then (s.stepNo, s.idx + 1) else (nextStep s, 0) := by
  obtain ⟨h0, hidx, -⟩ := hl
  unfold nextPosition nextStep
  unfold lastIdx at hidx ⊢
  rcases stepNo_cases s.stepNo with hk | hk | hk | hk | hk | hk | hk | hk | hk | hk | hk | hk | hk | hk | hk | hk <;>
    rw [hk] at hidx ⊢
  · exact absurd hk h0
  · rfl
  · rfl
  · rfl
  · rfl
  · -- step 5
    rw [if_pos hm]
    exact ite_eq_zero_eq_lt_one hidx _
  · -- step 6
    exact ite_eq_zero_eq_lt_one hidx _
  · rfl
  · -- step 8
    exact ite_eq_zero_eq_lt_one hidx _
  · rfl
  · rfl
  · -- step 11
    by_cases e : s.progLen = 0
    · simp [e]
    · have hpos : 0 < s.progLen.toNat := by bv_omega
      simpa [hpos] using e
  · rfl
  · rfl
  · -- step 14
    exact ite_eq_zero_eq_lt_one hidx _
  · exact absurd hk h15

/-! ### The primitives in order -/

/-- Each step has a primitive for each of its indices (R27, R140). -/
theorem stepPrims_length {s : State} (hl : PositionLegal s) :
    (stepPrims s s.stepNo.toNat).length = lastIdx s + 1 := by
  obtain ⟨h0, -, h12⟩ := hl
  unfold stepPrims lastIdx
  rcases stepNo_cases s.stepNo with hk | hk | hk | hk | hk | hk | hk | hk | hk | hk | hk | hk | hk | hk | hk | hk <;>
    rw [hk]
  · exact absurd hk h0
  · rfl
  · -- step 2
    exact List.length_replicate
  · rfl
  · rfl
  · rfl
  · rfl
  · rfl
  · rfl
  · rfl
  · -- step 10
    exact List.length_replicate
  · rfl
  · -- step 12
    have := h12 hk
    simp [image]
    omega
  · rfl
  · rfl
  · rfl

/-- The primitives from the start of step `b` up to the position `(STEP, IDX)`. -/
def issuedFrom (b : Nat) (s : State) : List Prim :=
  (List.range' b (s.stepNo.toNat - b)).flatMap (stepPrims s) ++ (stepPrims s s.stepNo.toNat).take s.idx.toNat

theorem issuedFrom_zero (s : State) : issuedFrom 0 s = issuedSoFar s := by
  rw [issuedFrom, issuedSoFar, List.range_eq_range', Nat.sub_zero]

/-- The two states give a run the same primitives (R170). -/
structure SameRecord (s t : State) : Prop where
  startAddr : t.startAddr = s.startAddr
  progLen : t.progLen = s.progLen
  nameField : nameField t = nameField s
  image : image t = image s

theorem SameRecord.stepPrims {s t : State} (h : SameRecord s t) : stepPrims t = stepPrims s :=
  stepPrims_congr h.nameField h.image h.progLen h.startAddr

theorem SameRecord.trans {s t u : State} (h1 : SameRecord s t) (h2 : SameRecord t u) : SameRecord s u :=
  ⟨h2.startAddr.trans h1.startAddr, h2.progLen.trans h1.progLen, h2.nameField.trans h1.nameField,
    h2.image.trans h1.image⟩

/-- States with the same parameters and memories are such. -/
theorem sameRecord_of_inputs {s t : State} (ha : t.startAddr = s.startAddr) (hl : t.progLen = s.progLen)
    (hn : t.nameLen = s.nameLen) (hp : t.prog = s.prog) (hm : t.name = s.name) : SameRecord s t :=
  ⟨ha, hl, nameField_congr hn fun _ _ => by rw [hm], image_congr hl fun _ _ => by rw [hp]⟩

/-- A list is its first elements, the next one and, where that is the last, nothing more. -/
theorem eq_take_append_last {α : Type} {xs : List α} {n : Nat} {x : α} (hlen : xs.length = n + 1)
    (hx : xs[n]? = some x) : xs = xs.take n ++ [x] := by
  rw [← Option.toList_some, ← hx, ← List.take_add_one, List.take_of_length_le hlen.le]

/-- The primitives up to the start of the next step are those before this step and all of its own: the one step that
may be left out, step 12, has none then. -/
theorem flatMap_nextStep {s : State} {b : Nat} (h15 : s.stepNo ≠ 15) (hb : b ≤ s.stepNo.toNat) :
    (List.range' b ((nextStep s).toNat - b)).flatMap (stepPrims s) =
      (List.range' b (s.stepNo.toNat - b)).flatMap (stepPrims s) ++ stepPrims s s.stepNo.toNat := by
  have hone : ∀ n, b ≤ n → (List.range' b (n + 1 - b)).flatMap (stepPrims s) =
      (List.range' b (n - b)).flatMap (stepPrims s) ++ stepPrims s n := fun n hn => by
    rw [Nat.succ_sub hn, List.range'_1_concat, Nat.add_sub_cancel' hn, List.flatMap_append, List.flatMap_singleton]
  unfold nextStep
  split
  · rename_i hskip
    obtain ⟨hk, hempty⟩ := hskip
    have hnone : stepPrims s 12 = [] := by simp [stepPrims, image, hempty]
    rw [hk] at hb ⊢
    have h13 := hone 12 (Nat.le_succ_of_le hb)
    rw [hnone, List.append_nil, hone 11 hb] at h13
    exact h13
  · have hsucc : (s.stepNo + 1).toNat = s.stepNo.toNat + 1 := by bv_omega
    rw [hsucc, hone _ hb]

/-- One step of the transfer table adds the primitive of its position. -/
theorem issuedFrom_next {s t : State} {p : Prim} {b : Nat} (hl : PositionLegal s) (hm : s.mode = .machineCode)
    (h15 : s.stepNo ≠ 15) (hsame : SameRecord s t) (hpos : (t.stepNo, t.idx) = nextPosition s)
    (hp : (stepPrims s s.stepNo.toNat)[s.idx.toNat]? = some p) (hb : b ≤ s.stepNo.toNat) :
    issuedFrom b t = issuedFrom b s ++ [p] := by
  rw [nextPosition_eq hl hm h15] at hpos
  unfold issuedFrom
  rw [hsame.stepPrims, List.append_assoc]
  by_cases hi : s.idx.toNat < lastIdx s
  · rw [if_pos hi] at hpos
    obtain ⟨ek, ei⟩ := Prod.mk.inj hpos
    have hidx : (s.idx + 1).toNat = s.idx.toNat + 1 := by
      have := s.progLen.isLt
      have : lastIdx s ≤ 65535 := by unfold lastIdx; split <;> omega
      bv_omega
    rw [ek, ei, hidx, List.take_add_one, hp]
    rfl
  · rw [if_neg hi] at hpos
    obtain ⟨ek, ei⟩ := Prod.mk.inj hpos
    have hlast : s.idx.toNat = lastIdx s := le_antisymm hl.idx_le (not_lt.1 hi)
    have hzero : t.idx.toNat = 0 := by rw [ei]; rfl
    rw [← eq_take_append_last (by rw [stepPrims_length hl, hlast]) hp, ek, flatMap_nextStep h15 hb, hzero,
      List.take_zero, List.append_nil]

/-! ### The checksum -/

/-- What a primitive adds to CKSUM (R112). -/
def Prim.summand : Prim → Byte
  | .bit _ => 0
  | .byte b => b
  | .silence _ => 0

theorem Prim.commit_cksum (p : Prim) (u : State) : (p.commit u).cksum = u.cksum + p.summand := by
  cases p with
  | byte b => rfl
  | bit v => exact (BitVec.add_zero _).symm
  | silence ms => exact (BitVec.add_zero _).symm

/-- The register writes of a step add the primitive's part to CKSUM, but for the two key-codes, which clear it
(R144, R152). -/
theorem settle_cksum {k : BitVec 4} (hk : k ≠ 0) (p : Prim) (u : State) :
    (settle (decodeStep k) p u).cksum = if k = 3 ∨ k = 11 then 0 else u.cksum + p.summand := by
  have hp := p.commit_cksum u
  rcases stepNo_cases k with rfl | rfl | rfl | rfl | rfl | rfl | rfl | rfl | rfl | rfl | rfl | rfl | rfl | rfl | rfl |
    rfl
  · exact absurd rfl hk
  · exact hp
  · exact (s2After_cksum _).trans hp
  · rfl
  · exact (s4After_cksum _).trans hp
  · exact (s5After_cksum _).trans hp
  · exact (s6After_cksum _).trans hp
  · exact hp
  · exact (s8After_cksum _).trans hp
  · exact hp
  · exact (s10After_cksum _).trans hp
  · rfl
  · exact (s12After_cksum _).trans hp
  · exact hp
  · exact (s14After_cksum _).trans hp
  · exact hp

/-- The step after the last key-code sent, where the sum of R159 begins anew. -/
def sumStart (k : Nat) : Nat := if 12 ≤ k then 12 else if 4 ≤ k then 4 else 0

theorem sumStart_le (k : Nat) : sumStart k ≤ k := by
  unfold sumStart
  split_ifs <;> omega

/-- It stays where it is but for the steps after the two key-codes. -/
theorem sumStart_succ {k : Nat} (h4 : k + 1 ≠ 4) (h12 : k + 1 ≠ 12) : sumStart (k + 1) = sumStart k := by
  unfold sumStart
  split_ifs <;> omega

/-- The sum of what primitives add to CKSUM. -/
def sumOf (ps : List Prim) : Byte := (ps.map Prim.summand).sum

theorem sumOf_append (ps qs : List Prim) : sumOf (ps ++ qs) = sumOf ps + sumOf qs := by
  rw [sumOf, List.map_append, List.sum_append]; rfl

theorem sumOf_bytes (bs : List Byte) : sumOf (bs.map .byte) = bs.sum := by
  rw [sumOf, List.map_map]
  exact congrArg List.sum (List.map_id bs)

theorem sumOf_eq_zero {ps : List Prim} (h : ∀ p ∈ ps, p.summand = 0) : sumOf ps = 0 := by
  rw [sumOf, List.map_congr_left h]
  simp

/-- The steps whose primitives add nothing: silences, leaders and dummy bytes. -/
def addsNothing : Nat → Bool
  | 0 | 1 | 2 | 8 | 9 | 10 | 14 | 15 => true
  | _ => false

theorem summand_of_addsNothing {s : State} {k : Nat} (hk : addsNothing k = true) :
    ∀ p ∈ stepPrims s k, p.summand = 0 := by
  intro p hp
  unfold addsNothing at hk
  split at hk
  case h_1 => cases hp
  case h_3 | h_6 => rw [List.eq_of_mem_replicate hp]; rfl
  case h_9 => cases hk
  all_goals
    simp only [stepPrims, List.mem_cons, List.not_mem_nil, or_false, or_self] at hp
    rw [hp]
    rfl

/-- A record whose bytes sum to 0 keeps its sum through the steps that add nothing. -/
theorem sumOf_record_then {s : State} {ks js : List Nat} {k n : Nat} (hks : sumOf (ks.flatMap (stepPrims s)) = 0)
    (hjs : ∀ j ∈ js, addsNothing j = true) (hk : n = 0 ∨ addsNothing k = true) :
    sumOf ((ks ++ js).flatMap (stepPrims s) ++ (stepPrims s k).take n) = 0 := by
  have hrest : sumOf (js.flatMap (stepPrims s)) = 0 := sumOf_eq_zero fun p hp => by
    obtain ⟨j, hj, hp⟩ := List.mem_flatMap.1 hp
    exact summand_of_addsNothing (hjs j hj) p hp
  have hhere : sumOf ((stepPrims s k).take n) = 0 := by
    rcases hk with rfl | hk
    · rfl
    · exact sumOf_eq_zero fun p hp => summand_of_addsNothing hk p (List.mem_of_mem_take hp)
  rw [List.flatMap_append, sumOf_append, sumOf_append, hks, hrest, hhere]
  rfl

/-- A checksum byte takes the sum of its record to 0 (R93). -/
theorem sumOf_bytes_neg (bs : List Byte) : sumOf (bs.map .byte ++ [.byte (neg8 bs.sum)]) = 0 := by
  rw [sumOf_append, sumOf_bytes]
  exact (congrArg _ (BitVec.add_zero _)).trans (add_neg8 _)

theorem sumOf_header (s : State) : sumOf ([4, 5, 6, 7].flatMap (stepPrims s)) = 0 := by
  have h := sumOf_bytes_neg (headerSummed s)
  simpa [headerSummed, stepPrims] using h

theorem sumOf_data (s : State) : sumOf ([12, 13].flatMap (stepPrims s)) = 0 := by
  have h := sumOf_bytes_neg (image s)
  simpa [stepPrims] using h

/-- Bytes of a record before its checksum byte: those of the steps gone through and the first of this one. -/
theorem sumOf_steps_take {s : State} {ks : List Nat} {k n : Nat} {as bs : List Byte}
    (hks : ks.flatMap (stepPrims s) = as.map .byte) (hk : stepPrims s k = bs.map .byte) :
    (as ++ bs.take n).sum = sumOf (ks.flatMap (stepPrims s) ++ (stepPrims s k).take n) := by
  rw [hks, hk, ← List.map_take, ← List.map_append, sumOf_bytes]

/-- Bytes of a record up to its checksum byte. -/
theorem sumOf_steps {s : State} {ks : List Nat} {k n : Nat} {as : List Byte}
    (hks : ks.flatMap (stepPrims s) = as.map .byte) (hn : n = 0) :
    as.sum = sumOf (ks.flatMap (stepPrims s) ++ (stepPrims s k).take n) := by
  rw [hks, hn, List.take_zero, List.append_nil, sumOf_bytes]

/-- CKSUM as R159 states it is the sum over the primitives since the last key-code. -/
theorem runningChecksum_eq {s : State} (hl : PositionLegal s) :
    runningChecksum s = sumOf (issuedFrom (sumStart s.stepNo.toNat) s) := by
  obtain ⟨h0, hidx, -⟩ := hl
  have hheader := sumOf_header s
  have hdata := sumOf_data s
  have hnone : sumOf ([].flatMap (stepPrims s)) = 0 := rfl
  unfold runningChecksum issuedFrom
  unfold lastIdx at hidx
  rcases stepNo_cases s.stepNo with hk | hk | hk | hk | hk | hk | hk | hk | hk | hk | hk | hk | hk | hk | hk | hk <;>
    rw [hk] at hidx ⊢
  · exact absurd hk h0
  · exact (sumOf_record_then hnone (js := [0]) (by decide) (.inr rfl)).symm
  · exact (sumOf_record_then hnone (js := [0, 1]) (by decide) (.inr rfl)).symm
  · exact (sumOf_record_then hnone (js := [0, 1, 2]) (by decide) (.inl (Nat.le_zero.1 hidx))).symm
  · exact sumOf_steps_take (ks := []) (as := []) rfl rfl
  · exact sumOf_steps_take (ks := [4]) (by simp [stepPrims]) rfl
  · exact sumOf_steps_take (ks := [4, 5]) (by simp [stepPrims]) rfl
  · exact sumOf_steps (ks := [4, 5, 6]) (by simp [stepPrims, headerSummed]) (Nat.le_zero.1 hidx)
  · exact (sumOf_record_then hheader (js := []) (by decide) (.inr rfl)).symm
  · exact (sumOf_record_then hheader (js := [8]) (by decide) (.inr rfl)).symm
  · exact (sumOf_record_then hheader (js := [8, 9]) (by decide) (.inr rfl)).symm
  · exact (sumOf_record_then hheader (js := [8, 9, 10]) (by decide) (.inl (Nat.le_zero.1 hidx))).symm
  · exact sumOf_steps_take (ks := []) (as := []) rfl rfl
  · exact sumOf_steps (ks := [12]) (by simp [stepPrims]) (Nat.le_zero.1 hidx)
  · exact (sumOf_record_then hdata (js := []) (by decide) (.inr rfl)).symm
  · exact (sumOf_record_then hdata (js := [14]) (by decide) (.inr rfl)).symm

/-- Right after the key-code of a record its sum is still empty. -/
theorem runningChecksum_after_key {s t : State} (hk : s.stepNo = 3 ∨ s.stepNo = 11) (hsame : SameRecord s t)
    (hpos : (t.stepNo, t.idx) = nextPosition s) : runningChecksum t = 0 := by
  unfold nextPosition at hpos
  unfold runningChecksum
  rcases hk with hk | hk <;> rw [hk] at hpos
  · obtain ⟨ek, ei⟩ := Prod.mk.inj hpos
    rw [ek, ei]
    rfl
  · by_cases hn : 0 < s.progLen.toNat
    · obtain ⟨ek, ei⟩ := Prod.mk.inj (hpos.trans (if_pos hn))
      rw [ek, ei]
      rfl
    · obtain ⟨ek, -⟩ := Prod.mk.inj (hpos.trans (if_neg hn))
      have hempty : image t = [] := by simp [image, hsame.progLen, Nat.eq_zero_of_not_pos hn]
      rw [ek, hempty]
      rfl

/-- The sum of R159 takes each primitive in, but for the key-codes, after which it begins anew. -/
theorem runningChecksum_next {s t : State} {p : Prim} (hl : PositionLegal s) (hm : s.mode = .machineCode)
    (h15 : s.stepNo ≠ 15) (hsame : SameRecord s t) (hpos : (t.stepNo, t.idx) = nextPosition s)
    (hp : (stepPrims s s.stepNo.toNat)[s.idx.toNat]? = some p) :
    runningChecksum t = if s.stepNo = 3 ∨ s.stepNo = 11 then 0 else runningChecksum s + p.summand := by
  by_cases hkey : s.stepNo = 3 ∨ s.stepNo = 11
  · rw [if_pos hkey, runningChecksum_after_key hkey hsame hpos]
  · have hl' : PositionLegal t := positionLegal_of_next hl h15 hsame.progLen hpos
    have hstart : sumStart t.stepNo.toNat = sumStart s.stepNo.toNat := by
      rw [nextPosition_eq hl hm h15] at hpos
      rw [not_or] at hkey
      obtain ⟨h3, h11⟩ := hkey
      split at hpos
      · rw [(Prod.mk.inj hpos).1]
      · rw [(Prod.mk.inj hpos).1, nextStep, if_neg fun h => h11 h.1]
        have hsucc : (s.stepNo + 1).toNat = s.stepNo.toNat + 1 := by bv_omega
        have h4 : s.stepNo.toNat + 1 ≠ 4 := by bv_omega
        have h12 : s.stepNo.toNat + 1 ≠ 12 := by bv_omega
        rw [hsucc]
        exact sumStart_succ h4 h12
    rw [if_neg hkey, runningChecksum_eq hl', runningChecksum_eq hl, hstart,
      issuedFrom_next hl hm h15 hsame hpos hp (sumStart_le _), sumOf_append]
    exact congrArg _ (BitVec.add_zero _)

/-- Only step 3, or a later step, leads past step 3. -/
theorem le_of_next {s t : State} (hl : PositionLegal s) (hm : s.mode = .machineCode) (h15 : s.stepNo ≠ 15)
    (hpos : (t.stepNo, t.idx) = nextPosition s) (h4 : 4 ≤ t.stepNo.toNat) : 3 ≤ s.stepNo.toNat := by
  rw [nextPosition_eq hl hm h15] at hpos
  unfold nextStep at hpos
  split_ifs at hpos with hi hskip <;> rw [(Prod.mk.inj hpos).1] at h4
  · omega
  · rw [hskip.1]; decide
  · bv_omega

/-! ### The tape -/

/-- The primitives of a whole run in order (R140). -/
def runPrims (s : State) : List Prim := (List.range 16).flatMap (stepPrims s)

/-- The tape of R162, primitive by primitive. -/
theorem runPrims_eq (s : State) : runPrims s =
    [Prim.silence 10] ++ List.replicate 3600 (Prim.bit true) ++ (wireHeader s).map Prim.byte ++
    [Prim.silence 1000] ++ List.replicate 3600 (Prim.bit true) ++ (wireData s).map Prim.byte ++
    [Prim.silence 10] := by
  have hrange : List.range 16 = [0, 1, 2, 3, 4, 5, 6, 7, 8, 9, 10, 11, 12, 13, 14, 15] := rfl
  simp only [runPrims, hrange, List.flatMap_cons, List.flatMap_nil, stepPrims, wireHeader, headerSummed, wireData,
    List.map_append, List.map_cons, List.map_nil, List.append_assoc, List.cons_append, List.nil_append,
    List.append_nil]

theorem flatMap_samples_bytes (bs : List Byte) : (bs.map Prim.byte).flatMap Prim.samples = bs.flatMap frame :=
  List.flatMap_map _ _ _

theorem flatMap_samples_leader : (List.replicate 3600 (Prim.bit true)).flatMap Prim.samples = leader := by
  rw [List.flatMap_def, List.map_replicate]
  rfl

theorem samples_silence_10 : (Prim.silence 10).samples = List.replicate 192 0x80 := by
  have h : silenceCount 10 = 192 := silenceCount_10
  rw [Prim.samples, h]

theorem samples_silence_1000 : (Prim.silence 1000).samples = List.replicate 19200 0x80 := by
  have h : silenceCount 1000 = 19200 := silenceCount_1000
  rw [Prim.samples, h]

/-- A run's primitives give the tape. -/
theorem flatMap_samples_runPrims (s : State) : (runPrims s).flatMap Prim.samples = tape s := by
  rw [runPrims_eq]
  simp only [List.flatMap_append, List.flatMap_singleton, flatMap_samples_bytes, flatMap_samples_leader]
  simp only [samples_silence_10, samples_silence_1000, tape, List.append_assoc]

/-- A run has `7231 + PROG_LEN` primitives (R157). -/
theorem runPrims_length (s : State) : (runPrims s).length = 7231 + s.progLen.toNat := by
  rw [runPrims_eq]
  simp only [List.length_append, List.length_replicate, List.length_map, wireHeader_length, wireData_length,
    List.length_singleton]
  omega

/-- What the tape depends on (R170). -/
theorem SameRecord.tape {s t : State} (h : SameRecord s t) : tape t = tape s := by
  rw [← flatMap_samples_runPrims, ← flatMap_samples_runPrims, runPrims, h.stepPrims, runPrims]

/-- The primitives issued, with the next one, begin those of the run. -/
theorem issuedSoFar_append_prefix {s : State} {p : Prim}
    (hp : (stepPrims s s.stepNo.toNat)[s.idx.toNat]? = some p) : issuedSoFar s ++ [p] <+: runPrims s := by
  have hstep : (stepPrims s s.stepNo.toNat).take s.idx.toNat ++ [p] <+: stepPrims s s.stepNo.toNat := by
    rw [← Option.toList_some, ← hp, ← List.take_add_one]
    exact List.take_prefix _ _
  have hsplit : List.range 16 = List.range s.stepNo.toNat ++
      s.stepNo.toNat :: List.range' (s.stepNo.toNat + 1) (15 - s.stepNo.toNat) := by
    have hlt := s.stepNo.isLt
    have h := List.range'_append_1 (s := 0) (m := s.stepNo.toNat) (n := 15 - s.stepNo.toNat + 1)
    rw [Nat.zero_add, show s.stepNo.toNat + (15 - s.stepNo.toNat + 1) = 16 by omega, List.range'_succ] at h
    rw [List.range_eq_range', List.range_eq_range', h]
  rw [runPrims, hsplit, List.flatMap_append, List.flatMap_cons, issuedSoFar, List.append_assoc]
  exact (List.prefix_append_right_inj _).2 (hstep.trans (List.prefix_append _ _))

/-- At the last step nothing is left after it. -/
theorem issuedSoFar_append_last {s : State} (hl : PositionLegal s) (h15 : s.stepNo = 15) :
    issuedSoFar s ++ [.silence 10] = runPrims s := by
  have hidx : s.idx.toNat = 0 := Nat.le_zero.1 (by simpa [lastIdx, h15] using hl.idx_le)
  rw [issuedSoFar, hidx, h15, List.take_zero, List.append_nil, runPrims, List.range_succ (n := 15),
    List.flatMap_append, List.flatMap_singleton]
  rfl

end Sys2Proof.Machine
end

section
/-! PROOFS. The stream of a run: a running core's own step goes on along the tape, and no host act, reset or sink event
disturbs it. -/

namespace Sys2Proof.Machine

/-! ### A core in the middle of a run -/

/-- A running core with its inputs backed, CKSUM at the sum of R159 and OUT at the part of the tape issued so far:
what a step of a run needs, whether or not the rest of the state is one that a reset leads to. -/
structure OnTape (s : State) : Prop where
  running : s.busy = true
  unfinished : s.done = false
  sound : s.fault = false
  machineCode : s.mode = .machineCode
  position : PositionLegal s
  backed : Backed s
  recordSum : 4 ≤ s.stepNo.toNat → s.cksum = runningChecksum s
  stream : s.out = emittedSoFar s

theorem StreamInv.onTape {s : State} (h : StreamInv s) (hb : s.busy = true) : OnTape s :=
  have ⟨hdone, hfault⟩ := h.oneFlag.1 hb
  ⟨hb, hdone, hfault, h.machineCode hb, h.running hb, h.backed hb, h.recordSum hb, h.stream hb⟩

/-- An index with two values picks one of two bytes. -/
theorem bigEndian_getElem? (v : Half) {i : Half} (hi : i.toNat ≤ 1) :
    (bigEndian v)[i.toNat]? = some (if i = 0 then highByte v else lowByte v) := by
  have h2 : i = 0 ∨ i = 1 := by bv_omega
  rcases h2 with rfl | rfl <;> rfl

theorem nameField_getElem? (s : State) {i : Nat} (hi : i < 16) : (nameField s)[i]? = some (nameFieldByte s i) := by
  simp [nameField, hi]

theorem image_getElem? (s : State) {i : Nat} (hi : i < s.progLen.toNat) :
    (image s)[i]? = some ((Memory.read s.prog i).getD 0) := by
  simp [image, hi]

/-- A step with one primitive issues it at its only index. -/
theorem singleton_getElem? (p : Prim) {i : Half} (hi : i.toNat ≤ 0) : [p][i.toNat]? = some p := by
  rw [Nat.le_zero.1 hi]
  rfl

theorem map_byte_getElem? {bs : List Byte} {i : Nat} {b : Byte} (h : bs[i]? = some b) :
    (bs.map Prim.byte)[i]? = some (.byte b) := by
  rw [List.getElem?_map, h]
  rfl

/-- The step of a running core issues the primitive of its position. -/
theorem OnTape.issuedPrim_eq {s : State} (h : OnTape s) :
    issuedPrim (decodeStep s.stepNo) s = (stepPrims s s.stepNo.toNat)[s.idx.toNat]? := by
  obtain ⟨h0, hidx, h12⟩ := h.position
  have hsum := h.recordSum
  have hlt : ∀ n, s.idx.toNat ≤ n → s.idx.toNat < n + 1 := fun _ => Nat.lt_succ_of_le
  unfold runningChecksum at hsum
  unfold lastIdx at hidx
  rcases stepNo_cases s.stepNo with hk | hk | hk | hk | hk | hk | hk | hk | hk | hk | hk | hk | hk | hk | hk | hk <;>
    rw [hk] at hidx hsum ⊢ <;> symm
  · exact absurd hk h0
  · -- step 1
    exact singleton_getElem? _ hidx
  · -- step 2
    exact (List.getElem?_replicate).trans (if_pos (hlt _ hidx))
  · -- step 3
    exact (singleton_getElem? _ hidx).trans (congrArg (some ∘ Prim.byte) (if_pos h.machineCode).symm)
  · -- step 4
    refine (map_byte_getElem? (nameField_getElem? s (hlt _ hidx))).trans (if_pos fun hn => ⟨hlt _ hidx, ?_⟩).symm
    exact h.backed.2 _ (lt_min hn (hlt _ hidx))
  · -- step 5
    exact map_byte_getElem? (bigEndian_getElem? _ hidx)
  · -- step 6
    exact map_byte_getElem? (bigEndian_getElem? _ hidx)
  · -- step 7
    exact (singleton_getElem? _ hidx).trans (congrArg (some ∘ Prim.byte ∘ neg8) (hsum (by decide)).symm)
  · -- step 8
    exact (List.getElem?_replicate (n := 2)).trans (if_pos (hlt _ hidx))
  · -- step 9
    exact singleton_getElem? _ hidx
  · -- step 10
    exact (List.getElem?_replicate).trans (if_pos (hlt _ hidx))
  · -- step 11
    exact (singleton_getElem? _ hidx).trans (congrArg (some ∘ Prim.byte) (if_pos h.machineCode).symm)
  · -- step 12
    have hi : s.idx.toNat < s.progLen.toNat := by
      have : s.idx.toNat ≤ s.progLen.toNat - 1 := hidx
      have := h12 hk
      omega
    exact (map_byte_getElem? (image_getElem? s hi)).trans (if_pos ⟨hi, h.backed.1 _ hi⟩).symm
  · -- step 13
    exact (singleton_getElem? _ hidx).trans (congrArg (some ∘ Prim.byte ∘ neg8) (hsum (by decide)).symm)
  · -- step 14
    exact (List.getElem?_replicate (n := 2)).trans (if_pos (hlt _ hidx))
  · -- step 15
    exact singleton_getElem? _ hidx

/-- So the step has its primitive. -/
theorem OnTape.exists_prim {s : State} (h : OnTape s) : ∃ p, issuedPrim (decodeStep s.stepNo) s = some p := by
  have hi : s.idx.toNat < (stepPrims s s.stepNo.toNat).length := by
    rw [stepPrims_length h.position]
    exact Nat.lt_succ_of_le h.position.idx_le
  exact ⟨_, h.issuedPrim_eq.trans (List.getElem?_eq_getElem hi)⟩

section StepOfRun

variable {s t : State} {p : Prim} (h : OnTape s) (hp : issuedPrim (decodeStep s.stepNo) s = some p)
  (ht : t = settle (decodeStep s.stepNo) p (s.afterSamples p.samples))
include ht

/-- The register writes of a step leave a run's inputs. -/
theorem settle_sameRecord : SameRecord s t := by
  obtain ⟨-, -, ha, hl, hn, hprog, hname, -⟩ := settle_keeps (decodeStep s.stepNo) p (s.afterSamples p.samples)
  rw [← ht] at ha hl hn hprog hname
  exact sameRecord_of_inputs ha hl hn hprog hname

include h

theorem OnTape.position_next : (t.stepNo, t.idx) = nextPosition s := by
  rw [ht]
  exact settle_position p (u := s.afterSamples p.samples) h.position

include hp

/-- CKSUM after a step of a run, where it was the sum of R159 before or the step clears it. -/
theorem OnTape.cksum_next (h15 : s.stepNo ≠ 15) (hsum : s.stepNo = 3 ∨ s.cksum = runningChecksum s) :
    t.cksum = runningChecksum t := by
  have hck : t.cksum = if s.stepNo = 3 ∨ s.stepNo = 11 then 0 else s.cksum + p.summand := by
    rw [ht]
    exact settle_cksum h.position.stepNo_ne p (s.afterSamples p.samples)
  rw [hck, runningChecksum_next h.position h.machineCode h15 (settle_sameRecord ht) (h.position_next ht)
    (h.issuedPrim_eq ▸ hp)]
  rcases hsum with h3 | hsum
  · simp [h3]
  · rw [hsum]

/-- The primitives issued after a step of a run. -/
theorem OnTape.issuedSoFar_next (h15 : s.stepNo ≠ 15) : issuedSoFar t = issuedSoFar s ++ [p] := by
  rw [← issuedFrom_zero, ← issuedFrom_zero]
  exact issuedFrom_next h.position h.machineCode h15 (settle_sameRecord ht) (h.position_next ht)
    (h.issuedPrim_eq ▸ hp) (Nat.zero_le _)

/-- A step before the last leads on along the tape. -/
theorem OnTape.next (h15 : s.stepNo ≠ 15) : OnTape t := by
  obtain ⟨-, -, -, hlast⟩ := decodeStep_ne s.stepNo
  obtain ⟨hbusy, hdone⟩ := settle_flags (hlast h15) p (s.afterSamples p.samples)
  obtain ⟨hout, hmode, -, hl, hn, hprog, hname, -, -, -, hfault, -⟩ :=
    settle_keeps (decodeStep s.stepNo) p (s.afterSamples p.samples)
  rw [← ht] at hbusy hdone hout hmode hl hn hprog hname hfault
  have hpos := h.position_next ht
  exact
    { running := hbusy.trans h.running
      unfinished := hdone.trans h.unfinished
      sound := hfault.trans h.sound
      machineCode := hmode.trans h.machineCode
      position := positionLegal_of_next h.position h15 hl hpos
      backed := by
        unfold Backed
        rw [hl, hn, hprog, hname]
        exact h.backed
      recordSum := fun h4 => h.cksum_next hp ht h15 <| by
        have h3 := le_of_next h.position h.machineCode h15 hpos h4
        rcases Nat.eq_or_lt_of_le h3 with h3 | h4
        · exact .inl (by bv_omega)
        · exact .inr (h.recordSum h4)
      stream := by
        rw [hout, emittedSoFar, h.issuedSoFar_next hp ht h15, List.flatMap_append, List.flatMap_singleton]
        exact congrArg (· ++ p.samples) h.stream }

/-- The last step ends the run with CKSUM 0 and the whole tape in OUT. -/
theorem OnTape.finished (h15 : s.stepNo = 15) : EndsNormally t ∧ t.idx = 0 ∧ t.cksum = 0 ∧ t.out = tape s := by
  have hck : s.cksum = 0 := by
    have hsum := h.recordSum (by rw [h15]; decide)
    rwa [runningChecksum, h15] at hsum
  obtain rfl : p = .silence 10 := by rw [h15] at hp; exact (Option.some.inj hp).symm
  have hout : s.out ++ (Prim.silence 10).samples = tape s := by
    rw [h.stream, ← flatMap_samples_runPrims, ← issuedSoFar_append_last h.position h15, List.flatMap_append,
      List.flatMap_singleton, emittedSoFar]
  rw [h15] at ht
  subst ht
  exact ⟨⟨rfl, rfl, h.sound, rfl⟩, rfl, hck, hout⟩

end StepOfRun

/-! ### The model step of the core on its own -/

/-- A core that does not run has no stream to keep. -/
theorem Inv.streamInv_of_idle {s : State} (h : Inv s) (hb : s.busy = false) : StreamInv s :=
  ⟨h, fun hb' => absurd hb' (by simp [hb]), fun hb' => absurd hb' (by simp [hb])⟩

theorem OnTape.streamInv {s : State} (h : OnTape s) (hi : Inv s) : StreamInv s :=
  ⟨hi, fun _ => h.recordSum, fun _ => h.stream⟩

/-- Everything the model step of a running core on the tape can do: go on along it, end the run with the whole of
it, or take OutputUnwritable. -/
theorem OnTape.exec_cases {s t : State} (h : OnTape s) (ht : exec (decodeStep s.stepNo) s = .next t) :
    (OnTape t ∧ (s.cksum = runningChecksum s → t.cksum = runningChecksum t)) ∨
    (EndsNormally t ∧ t.idx = 0 ∧ t.cksum = 0 ∧ t.out = tape s) ∨
    (t.busy = false ∧ t.done = false ∧ t.fault = true) := by
  obtain ⟨p, hp, ⟨-, ht⟩ | ⟨k, -, -, -, rfl⟩⟩ := exec_step_cases h.position.stepNo_ne ht
  · by_cases h15 : s.stepNo = 15
    · exact .inr (.inl (h.finished hp ht h15))
    · exact .inl ⟨h.next hp ht h15, fun hsum => h.cksum_next hp ht h15 (.inr hsum)⟩
  · exact .inr (.inr ⟨rfl, h.unfinished, rfl⟩)

theorem StreamInv.engineStep {s t : State} (h : StreamInv s) (ht : engineStep s = .next t) : StreamInv t := by
  have hi : Inv t := h.toInv.engineStep ht
  rcases engineStep_cases ht with ⟨hb, -, he⟩ | ⟨-, rfl⟩
  · rcases (h.onTape hb).exec_cases he with ⟨ho, -⟩ | ⟨hend, -⟩ | ⟨hb', -⟩
    · exact ho.streamInv hi
    · exact hi.streamInv_of_idle hend.busy
    · exact hi.streamInv_of_idle hb'
  · exact h

/-! ### What the host does to it -/

/-- `t` is `s` with other contents of the host's memories, another sink and other inputs still to come, and the bytes
the run uses as they were. -/
def SameRun (s t : State) : Prop :=
  SameRecord s t ∧ ∃ pr nm r ms, t = { s with prog := pr, name := nm, sinkRoom := r, inbox := ms }

theorem sameRun_env (s : State) (r : Option Nat) (ms : List Moment) :
    SameRun s { s with sinkRoom := r, inbox := ms } :=
  ⟨⟨rfl, rfl, rfl, rfl⟩, _, _, _, _, rfl⟩

theorem SameRun.refl (s : State) : SameRun s s := sameRun_env s s.sinkRoom s.inbox

theorem SameRun.trans {s t u : State} (h1 : SameRun s t) (h2 : SameRun t u) : SameRun s u := by
  obtain ⟨hsame, _, _, _, _, rfl⟩ := h1
  obtain ⟨hsame', _, _, _, _, rfl⟩ := h2
  exact ⟨hsame.trans hsame', _, _, _, _, rfl⟩

/-- What CKSUM and OUT should hold stays the same. -/
theorem SameRun.runningChecksum {s t : State} (h : SameRun s t) : runningChecksum t = runningChecksum s := by
  obtain ⟨⟨-, -, hn, hi⟩, _, _, _, _, rfl⟩ := h
  simp only [Machine.runningChecksum, headerSummed, hn, hi]

theorem SameRun.emittedSoFar {s t : State} (h : SameRun s t) : emittedSoFar t = emittedSoFar s := by
  obtain ⟨hsame, _, _, _, _, rfl⟩ := h
  simp only [Machine.emittedSoFar, issuedSoFar, hsame.stepPrims]

theorem StreamInv.of_sameRun {s t : State} (h : StreamInv s) (hi : Inv t) (hsame : SameRun s t) : StreamInv t := by
  have hck := hsame.runningChecksum
  have hout := hsame.emittedSoFar
  obtain ⟨-, pr, nm, r, ms, rfl⟩ := hsame
  exact ⟨hi, fun hb h4 => (h.recordSum hb h4).trans hck.symm, fun hb => (h.stream hb).trans hout.symm⟩

/-- An event at the sink's wire disturbs no run. -/
theorem sameRun_sinkEvent (e : SinkEvent) (s : State) : SameRun s (sinkEvent e s) := by
  cases e with
  | keep => exact .refl s
  | sound => exact sameRun_env s none s.inbox
  | failsAfter n => exact sameRun_env s (some n) s.inbox

/-- A change of PROG that leaves the bytes the run uses. -/
theorem sameRun_prog {s : State} {pr : Memory} (hb : s.busy = true)
    (h : ∀ i, usesProg i s = true → Memory.read pr i = Memory.read s.prog i) : SameRun s { s with prog := pr } :=
  ⟨⟨rfl, rfl, rfl, image_congr rfl fun i hi => h i (usesProg_eq_true hb hi)⟩, _, _, _, _, rfl⟩

/-- A change of NAME that leaves the bytes the run uses. -/
theorem sameRun_name {s : State} {nm : Memory} (hb : s.busy = true)
    (h : ∀ i, usesName i s = true → Memory.read nm i = Memory.read s.name i) : SameRun s { s with name := nm } :=
  ⟨⟨rfl, rfl, nameField_congr rfl fun i hi => h i (usesName_eq_true hb hi), rfl⟩, _, _, _, _, rfl⟩

/-- A byte placed where the run does not use it, or where it is already, changes no byte the run uses. -/
theorem read_write_of_used {m : Memory} {a : Nat} {v : Byte} {uses : Nat → Bool}
    (h : uses a = true → Memory.read m a = some v) (i : Nat) (hi : uses i = true) :
    Memory.read (Memory.write m a v) i = Memory.read m i := by
  by_cases e : i = a
  · subst e
    exact Memory.read_write_present m (h hi) i
  · exact Memory.read_write_other m v e

/-- No act of the host disturbs a run in progress (R30, R63, R110). -/
theorem sameRun_runAct {s t : State} {a : HostAct} (hb : s.busy = true) (ht : runAct a s = .next t) :
    SameRun s t := by
  cases a with
  | writeCtrl v => cases (writeCtrl_busy v hb).symm.trans ht; exact .refl s
  | writeStartAddr v => cases ht; rw [writeStartAddr_busy v hb]; exact .refl s
  | writeProgLen v => cases ht; rw [writeProgLen_busy v hb]; exact .refl s
  | writeNameLen n => cases ht; rw [writeNameLen_busy n hb]; exact .refl s
  | writeReadOnly p v => cases ht; exact .refl s
  | placeProg i b =>
    obtain ⟨rfl, h⟩ := placeProg_cases ht
    exact sameRun_prog hb (read_write_of_used (uses := (usesProg · s)) h)
  | placeName i b =>
    obtain ⟨rfl, h⟩ := placeName_cases ht
    exact sameRun_name hb (read_write_of_used (uses := (usesName · s)) h)
  | truncateProg n =>
    obtain ⟨rfl, h⟩ := truncateProg_cases ht
    exact sameRun_prog hb h
  | modcmd w | cell w | frame w | key w => cases (driveModulator_refused (.inl hb)).symm.trans ht

theorem sameRun_runOptAct {s t : State} {a : Option HostAct} (hb : s.busy = true)
    (ht : runOptAct a s = .next t) : SameRun s t := by
  cases a with
  | none => cases ht; exact .refl s
  | some a => exact sameRun_runAct hb ht

/-- An act at a port is a START, or it leaves BUSY, FAULT and CKSUM; neither touches the instants still to come. -/
theorem runAct_port_cases {s t : State} {a : HostAct} (ha : a.isPort = true) (ht : runAct a s = .next t) :
    t.inbox = s.inbox ∧
    ((∃ m, startRun (writeMode m s) = .next t) ∨ (t.busy = s.busy ∧ t.fault = s.fault ∧ t.cksum = s.cksum)) := by
  cases a with
  | writeCtrl v =>
    obtain ⟨m, h | rfl⟩ := writeCtrl_cases ht
    · obtain ⟨-, -, -, -, -, hi, -⟩ := start_keeps h
      exact ⟨hi, .inl ⟨m, h⟩⟩
    · unfold writeMode; split <;> exact ⟨rfl, .inr ⟨rfl, rfl, rfl⟩⟩
  | writeStartAddr v => cases ht; unfold writeStartAddr; split <;> exact ⟨rfl, .inr ⟨rfl, rfl, rfl⟩⟩
  | writeProgLen v => cases ht; unfold writeProgLen; split <;> exact ⟨rfl, .inr ⟨rfl, rfl, rfl⟩⟩
  | writeNameLen n => cases ht; unfold writeNameLen; split <;> exact ⟨rfl, .inr ⟨rfl, rfl, rfl⟩⟩
  | writeReadOnly p v => cases ht; exact ⟨rfl, .inr ⟨rfl, rfl, rfl⟩⟩
  | placeProg i b => obtain ⟨rfl, -⟩ := placeProg_cases ht; exact ⟨rfl, .inr ⟨rfl, rfl, rfl⟩⟩
  | placeName i b => obtain ⟨rfl, -⟩ := placeName_cases ht; exact ⟨rfl, .inr ⟨rfl, rfl, rfl⟩⟩
  | truncateProg n => obtain ⟨rfl, -⟩ := truncateProg_cases ht; exact ⟨rfl, .inr ⟨rfl, rfl, rfl⟩⟩
  | modcmd w | cell w | frame w | key w => cases ha

/-- A word for the modulator leaves an idle core idle. -/
theorem runAct_modulator_idle {s t : State} {a : HostAct} (ha : a.isPort = false) (ht : runAct a s = .next t) :
    t.busy = false := by
  have hword : ∃ w, forModulator w = true ∧ driveModulator w s = .next t := by
    cases a with
    | modcmd w | cell w | frame w | key w => exact ⟨_, rfl, ht⟩
    | _ => cases ha
  obtain ⟨w, hw, hd⟩ := hword
  obtain ⟨⟨hb, -, -⟩, hr⟩ := driveModulator_cases hd
  obtain ⟨i, hi, he⟩ := runWord_cases hr
  rcases exec_of_leavesPosition (leavesPosition_of_decode hw hi) he with rfl | ⟨p, c, rfl⟩ | ⟨p, k, hb', -⟩
  · exact hb
  · exact hb
  · exact absurd hb' (by simp [hb])

/-- What START does to an idle core: it faults, as it may have before, or begins a run, and leaves CKSUM. -/
theorem startRun_from_idle {m : TapeMode} {s t : State} (hb : s.busy = false)
    (ht : startRun (writeMode m s) = .next t) : t.cksum = s.cksum ∧
      ((t.busy = false ∧ t.fault = true) ∨ (t.stepNo = 1 ∧ t.idx = 0 ∧ t.out = [] ∧ s.fault = false)) := by
  rw [writeMode_idle m hb] at ht
  rcases startRun_cases ht with ⟨-, hf, -, -, rfl⟩ | ⟨-, -, -, rfl⟩ | ⟨h | hf, rfl⟩
  · exact ⟨rfl, .inr ⟨rfl, rfl, rfl, hf⟩⟩
  · exact ⟨rfl, .inl ⟨rfl, rfl⟩⟩
  · exact absurd h (by simp [hb])
  · exact ⟨rfl, .inl ⟨hb, hf⟩⟩

/-- An idle core that runs after an act of the host is at the first primitive of its run. -/
theorem runAct_from_idle {s t : State} {a : HostAct} (hb : s.busy = false) (ht : runAct a s = .next t)
    (hbt : t.busy = true) : t.stepNo = 1 ∧ t.idx = 0 ∧ t.out = [] := by
  cases ha : a.isPort
  · exact absurd hbt (by simp [runAct_modulator_idle ha ht])
  · rcases (runAct_port_cases ha ht).2 with ⟨m, hs⟩ | ⟨hb', -, -⟩
    · rcases (startRun_from_idle hb hs).2 with ⟨hb', -⟩ | ⟨hk, hi, hout, -⟩
      · exact absurd hbt (by simp [hb'])
      · exact ⟨hk, hi, hout⟩
    · exact absurd hbt (by simp [hb', hb])

/-- A run has issued nothing at its first position. -/
theorem issuedSoFar_start {s : State} (hk : s.stepNo = 1) (hi : s.idx = 0) : issuedSoFar s = [] := by
  rw [issuedSoFar, hk, hi]
  rfl

theorem StreamInv.runAct {s t : State} (h : StreamInv s) {a : HostAct} (ht : runAct a s = .next t) :
    StreamInv t := by
  have hi : Inv t := h.toInv.runAct ht
  cases hb : s.busy
  · refine ⟨hi, fun hbt h4 => ?_, fun hbt => ?_⟩ <;> obtain ⟨hk, hidx, hout⟩ := runAct_from_idle hb ht hbt
    · exact absurd h4 (by rw [hk]; decide)
    · rw [hout, Machine.emittedSoFar, issuedSoFar_start hk hidx]
      rfl
  · exact h.of_sameRun hi (sameRun_runAct hb ht)

theorem StreamInv.runOptAct {s t : State} (h : StreamInv s) {a : Option HostAct} (ht : runOptAct a s = .next t) :
    StreamInv t := by
  cases a with
  | none => cases ht; exact h
  | some a => exact h.runAct ht

theorem StreamInv.sinkEvent {s : State} (h : StreamInv s) (e : SinkEvent) : StreamInv (sinkEvent e s) :=
  h.of_sameRun (h.toInv.sinkEvent e) (sameRun_sinkEvent e s)

theorem StreamInv.runMoment {s t : State} (h : StreamInv s) {m : Moment} (ht : runMoment m s = .next t) :
    StreamInv t := by
  rcases runMoment_cases ht with ⟨-, rfl⟩ | ⟨-, u, hu, hstep⟩
  · exact h.toInv.resetCore.streamInv_of_idle rfl
  · have hs : StreamInv u := (h.sinkEvent m.sink).runOptAct hu
    rcases hstep with rfl | ⟨-, he⟩
    · exact hs
    · exact hs.engineStep he

theorem StreamInv.with_inbox {s : State} (h : StreamInv s) (ms : List Moment) : StreamInv { s with inbox := ms } :=
  h.of_sameRun (h.toInv.with_env s.cksum s.sinkRoom ms) (sameRun_env s s.sinkRoom ms)

/-- Settles O59: a running core's own step goes on along the tape, and no instant of the host disturbs a run. -/
theorem noHostActDisturbsTheRunningStream : Obligations.NoHostActDisturbsTheRunningStream := by
  intro s t h ht
  cases hin : s.inbox with
  | nil => exact h.engineStep ((step_of_quiet hin).symm.trans ht)
  | cons m rest => exact (h.with_inbox rest).runMoment ((step_of_waiting hin).symm.trans ht)

/-! ### CKSUM where the engine alone drives the modulator -/

/-- Outside a record nothing is summed. -/
theorem runningChecksum_of_lt {s : State} (h : s.stepNo.toNat < 4) : runningChecksum s = 0 := by
  unfold runningChecksum
  split
  case h_7 => rfl
  all_goals omega

/-- A core that neither runs nor has faulted holds the sum 0. -/
theorem Inv.runningChecksum_idle {s : State} (h : Inv s) (hb : s.busy = false) (hf : s.fault = false) :
    runningChecksum s = 0 :=
  runningChecksum_of_lt (by rw [(h.idle hb hf).1]; decide)

theorem PortsOnly.of_inbox {s t : State} (h : PortsOnly s) (hin : t.inbox = s.inbox) : PortsOnly t := by
  rwa [PortsOnly, hin]

theorem engineStep_keeps_inbox {s t : State} (ht : engineStep s = .next t) : t.inbox = s.inbox := by
  rcases engineStep_cases ht with ⟨-, -, he⟩ | ⟨-, rfl⟩
  · obtain ⟨-, -, -, -, -, hin⟩ := exec_keeps_inputs he
    exact hin
  · rfl

theorem RunInv.engineStep {s t : State} (h : RunInv s) (ht : engineStep s = .next t) : RunInv t := by
  refine ⟨h.toStreamInv.engineStep ht, h.portsOnly.of_inbox (engineStep_keeps_inbox ht), ?_⟩
  rcases engineStep_cases ht with ⟨hb, -, he⟩ | ⟨-, rfl⟩
  · have ho := h.toStreamInv.onTape hb
    rcases ho.exec_cases he with ⟨-, hnext⟩ | ⟨hend, -, hck, -⟩ | ⟨-, -, hf⟩
    · exact fun _ => hnext (h.checksum ho.sound)
    · exact fun _ => hck.trans (runningChecksum_of_lt (by rw [hend.position]; decide)).symm
    · exact fun hf' => absurd hf' (by simp [hf])
  · exact h.checksum

/-- Nothing a running core does not read disturbs it, and an idle one holds 0. -/
theorem RunInv.of_sameRun {s t : State} (h : RunInv s) (hi : Inv t) (hsame : SameRun s t) (hp : PortsOnly t) :
    RunInv t := by
  refine ⟨h.toStreamInv.of_sameRun hi hsame, hp, ?_⟩
  have hck := hsame.runningChecksum
  obtain ⟨-, pr, nm, r, ms, rfl⟩ := hsame
  exact fun hf => (h.checksum hf).trans hck.symm

theorem RunInv.runAct {s t : State} (h : RunInv s) {a : HostAct} (ha : a.isPort = true)
    (ht : runAct a s = .next t) : RunInv t := by
  have hi : Inv t := h.toInv.runAct ht
  obtain ⟨hin, hcases⟩ := runAct_port_cases ha ht
  have hp : PortsOnly t := h.portsOnly.of_inbox hin
  cases hb : s.busy
  · refine ⟨h.toStreamInv.runAct ht, hp, fun hf => ?_⟩
    have hzero : s.fault = false → s.cksum = 0 := fun hf =>
      (h.checksum hf).trans (h.toInv.runningChecksum_idle hb hf)
    rcases hcases with ⟨m, hs⟩ | ⟨hb', hf', hck⟩
    · obtain ⟨hck, ⟨-, hf'⟩ | ⟨hk, -, -, hfs⟩⟩ := startRun_from_idle hb hs
      · exact absurd hf' (by simp [hf])
      · rw [hck, hzero hfs, runningChecksum_of_lt (by rw [hk]; decide)]
    · rw [hck, hzero (hf'.symm.trans hf), hi.runningChecksum_idle (hb'.trans hb) hf]
  · exact h.of_sameRun hi (sameRun_runAct hb ht) hp

theorem RunInv.resetCore {s : State} (h : RunInv s) : RunInv s.resetCore :=
  ⟨h.toInv.resetCore.streamInv_of_idle rfl, h.portsOnly.of_inbox rfl, fun _ => rfl⟩

theorem RunInv.sinkEvent {s : State} (h : RunInv s) (e : SinkEvent) : RunInv (sinkEvent e s) :=
  h.of_sameRun (h.toInv.sinkEvent e) (sameRun_sinkEvent e s) (h.portsOnly.of_inbox (by cases e <;> rfl))

theorem RunInv.runMoment {s t : State} (h : RunInv s) {m : Moment} (hm : ∀ a, m.act = some a → a.isPort = true)
    (ht : runMoment m s = .next t) : RunInv t := by
  rcases runMoment_cases ht with ⟨-, rfl⟩ | ⟨-, u, hu, hstep⟩
  · exact h.resetCore
  · have hs : RunInv u := by
      cases ha : m.act with
      | none => rw [ha] at hu; cases hu; exact h.sinkEvent m.sink
      | some a => rw [ha] at hu; exact (h.sinkEvent m.sink).runAct (hm a ha) hu
    rcases hstep with rfl | ⟨-, he⟩
    · exact hs
    · exact hs.engineStep he

/-- The instants after the oldest one are ports' too. -/
theorem RunInv.with_rest {s : State} {m : Moment} {rest : List Moment} (h : RunInv s) (hin : s.inbox = m :: rest) :
    RunInv { s with inbox := rest } :=
  h.of_sameRun (h.toInv.with_env s.cksum s.sinkRoom rest) (sameRun_env s s.sinkRoom rest)
    fun m' hm' => h.portsOnly m' (hin ▸ List.mem_cons_of_mem m hm')

/-- Settles O49: a step is the core's own or the oldest waiting instant, whose act goes to a port. -/
theorem everyStepKeepsChecksumAndStream : Obligations.EveryStepKeepsChecksumAndStream := by
  intro s t h ht
  cases hin : s.inbox with
  | nil => exact h.engineStep ((step_of_quiet hin).symm.trans ht)
  | cons m rest =>
    have hm := h.portsOnly m (hin ▸ List.mem_cons_self)
    exact (h.with_rest hin).runMoment hm ((step_of_waiting hin).symm.trans ht)

end Sys2Proof.Machine
end

section
/-! PROOFS. The START command, and whole runs: from an accepted START to the tape of R162. -/

namespace Sys2Proof.Machine

/-! ### The command -/

/-- The first position of a run, as an accepted `START_MC` leaves the core (R141). -/
def State.started (s : State) : State :=
  { s with mode := .machineCode, done := false, out := [], busy := true, stepNo := 1, idx := 0 }

/-- An accepted `START_MC` with the host's contract kept begins a run. -/
theorem exec_startMc_of_contract {s : State} (hb : s.busy = false) (hf : s.fault = false) (hc : Contract s) :
    exec .startMc s = .next s.started := by
  show startRun (writeMode .machineCode s) = _
  rw [writeMode_idle _ hb, startRun, if_neg fun ⟨_, _, hn⟩ => hn hc]
  simp [startCommand, State.acceptsStart, hb, hf, State.goto, State.flagsStarted, State.started]

/-- START in a faulted core does nothing. -/
theorem startRun_faulted {s : State} (hf : s.fault = true) : startRun s = .next s := by
  simp [startRun, startCommand, State.acceptsStart, hf]

/-- Settles O12: the contract decides between the run's first position and the refusal. -/
theorem startMachineCodeBeginsRun : Obligations.StartMachineCodeBeginsRun := by
  intro s hb hf
  refine ⟨exec_startMc_of_contract hb hf, fun hc => ?_⟩
  show startRun (writeMode .machineCode s) = _
  rw [writeMode_idle _ hb]
  exact startRun_of_broken hb hf rfl hc

/-- Settles O14: while BUSY = 1 neither MODE nor the command is taken, while FAULT = 1 MODE alone is. -/
theorem startNotAcceptedChangesNothingElse : Obligations.StartNotAcceptedChangesNothingElse := by
  intro s
  have hmc : exec .startMc s = startRun (writeMode .machineCode s) := rfl
  have hbasic : exec .startBasic s = startRun (writeMode .basic s) := rfl
  rw [hmc, hbasic]
  refine ⟨fun hb => ?_, fun hb hf => ?_⟩
  · rw [writeMode_busy _ hb, writeMode_busy _ hb]
    exact ⟨startRun_busy hb, startRun_busy hb⟩
  · rw [writeMode_idle _ hb, writeMode_idle _ hb]
    exact ⟨startRun_faulted hf, startRun_faulted hf⟩

/-! ### Chains of steps -/

/-- One step more at the end of a chain. -/
theorem run_succ_last {n : Nat} {s u v : State} (h : core.run n s = .next u) (hu : step u = .next v) :
    core.run (n + 1) s = .next v := by
  induction n generalizing s with
  | zero => cases h; exact run_succ hu
  | succ n ih =>
    cases hs : step s with
    | next t => rw [run_succ hs] at h ⊢; exact ih h
    | fault f => simp [Host.Core.run, show core.step s = _ from hs] at h
    | refused r => simp [Host.Core.run, show core.step s = _ from hs] at h

/-! ### A run with room for its tape -/

/-- A run launched from `s`, `n` of its primitives issued, with nothing waiting and room for the rest of the tape. -/
structure AlongRun (s : State) (n : Nat) (v : State) : Prop where
  onTape : OnTape v
  record : SameRecord s v
  quiet : v.inbox = []
  count : (issuedSoFar v).length = n
  room : ∀ r, v.sinkRoom = some r → (tape s).length ≤ v.out.length + r

/-- The start of the run. -/
theorem alongRun_started {s : State} (h : Launchable s) (hroom : ∀ r, s.sinkRoom = some r → (tape s).length ≤ r) :
    AlongRun s 0 s.started where
  onTape :=
    { running := rfl, unfinished := rfl, sound := h.sound, machineCode := rfl
      position := ⟨(by decide : (1 : BitVec 4) ≠ 0), Nat.zero_le _,
        fun e => absurd e (by decide : (1 : BitVec 4) ≠ 12)⟩
      backed := h.contract.backed
      recordSum := fun h4 => absurd h4 (by decide : ¬ 4 ≤ (1 : BitVec 4).toNat)
      stream := rfl }
  record := ⟨rfl, rfl, rfl, rfl⟩
  quiet := h.quiet
  count := rfl
  room := fun r hr => (hroom r hr).trans (Nat.le_add_left r _)

section StepAlongRun

variable {s v : State} {n : Nat} (h : AlongRun s n v)
include h

/-- The primitives issued and the next one begin those of the run. -/
theorem AlongRun.append_prefix {p : Prim} (hp : issuedPrim (decodeStep v.stepNo) v = some p) :
    issuedSoFar v ++ [p] <+: runPrims v :=
  issuedSoFar_append_prefix (h.onTape.issuedPrim_eq ▸ hp)

/-- A run in progress has a primitive left. -/
theorem AlongRun.lt_total : n < 7231 + s.progLen.toNat := by
  obtain ⟨p, hp⟩ := h.onTape.exists_prim
  have hle := (h.append_prefix hp).length_le
  rw [runPrims_length, h.record.progLen, List.length_append, h.count] at hle
  exact hle

/-- Its samples have room. -/
theorem AlongRun.length_le {p : Prim} (hp : issuedPrim (decodeStep v.stepNo) v = some p) :
    v.out.length + p.samples.length ≤ (tape s).length := by
  obtain ⟨rest, hrest⟩ := h.append_prefix hp
  rw [← h.record.tape, ← flatMap_samples_runPrims, ← hrest, h.onTape.stream]
  simp [emittedSoFar]

/-- The next step of the run issues its primitive: the run goes on, or it was the last one. -/
theorem AlongRun.step_cases : ∃ w, step v = .next w ∧
    (AlongRun s (n + 1) w ∨
      (n + 1 = 7231 + s.progLen.toNat ∧ EndsNormally w ∧ w.out = tape s ∧ w.cksum = 0)) := by
  obtain ⟨p, hp⟩ := h.onTape.exists_prim
  have hlen := h.length_le hp
  have htakes : SinkTakes p.samples.length v := fun _ r hr => by
    have := h.room r hr
    omega
  have hstep : step v = .next (settle (decodeStep v.stepNo) p (v.afterSamples p.samples)) := by
    rw [step_of_quiet h.quiet, engineStep_running h.onTape.running h.onTape.position.stepNo_ne, exec_of_takes hp htakes]
  refine ⟨_, hstep, ?_⟩
  obtain ⟨hout, -, -, -, -, -, -, hroom, hin, -⟩ :=
    settle_keeps (decodeStep v.stepNo) p (v.afterSamples p.samples)
  generalize hw : settle (decodeStep v.stepNo) p (v.afterSamples p.samples) = w at *
  by_cases h15 : v.stepNo = 15
  · right
    obtain ⟨hend, -, hck, htape⟩ := h.onTape.finished hp hw.symm h15
    have hall := congrArg List.length (issuedSoFar_append_last h.onTape.position h15)
    rw [runPrims_length, h.record.progLen, List.length_append, h.count] at hall
    exact ⟨hall, hend, htape.trans h.record.tape, hck⟩
  · left
    exact
      { onTape := h.onTape.next hp hw.symm h15
        record := h.record.trans (settle_sameRecord hw.symm)
        quiet := hin.trans h.quiet
        count := by rw [h.onTape.issuedSoFar_next hp hw.symm h15, List.length_append, h.count]; rfl
        room := fun r hr => by
          obtain ⟨r', hr', rfl⟩ := Option.map_eq_some_iff.1 (hroom.symm.trans hr)
          have := h.room r' hr'
          rw [hout, State.afterSamples_out, List.length_append]
          omega }

end StepAlongRun

/-- Every step of the run but the last one is reached. -/
theorem alongRun_of_lt {s : State} (h : Launchable s) (hroom : ∀ r, s.sinkRoom = some r → (tape s).length ≤ r)
    {n : Nat} (hn : n < 7231 + s.progLen.toNat) : ∃ v, core.run n s.started = .next v ∧ AlongRun s n v := by
  induction n with
  | zero => exact ⟨_, rfl, alongRun_started h hroom⟩
  | succ n ih =>
    obtain ⟨v, hrun, hv⟩ := ih (by omega)
    obtain ⟨w, hstep, hw | ⟨hlast, -⟩⟩ := hv.step_cases
    · exact ⟨w, run_succ_last hrun hstep, hw⟩
    · omega

/-- Settles O51: after all steps but one the run is along its tape, and the step that is left must be the last. -/
theorem completeRunWritesTheTape : Obligations.CompleteRunWritesTheTape := by
  intro s h hroom
  obtain ⟨v, hrun, hv⟩ := alongRun_of_lt h hroom (n := 7230 + s.progLen.toNat) (by omega)
  obtain ⟨u, hstep, hu | ⟨-, hend, hout, hck⟩⟩ := hv.step_cases
  · have := hu.lt_total
    omega
  · refine ⟨s.started, u, exec_startMc_of_contract h.idle h.sound h.contract, ?_, hend, hout, hck, fun n hn => ?_⟩
    · rw [show 7231 + s.progLen.toNat = 7230 + s.progLen.toNat + 1 by omega]
      exact run_succ_last hrun hstep
    · obtain ⟨w, hw, halong⟩ := alongRun_of_lt h hroom hn
      exact ⟨w, hw, halong.onTape.running⟩

/-! ### What the samples of a run depend on -/

/-- States that agree in the inputs of R170 give a run the same primitives. -/
theorem sameRecord_of_agree {s t : State} (ha : s.startAddr = t.startAddr) (hl : s.progLen = t.progLen)
    (hprog : ∀ i, i < s.progLen.toNat → Memory.read s.prog i = Memory.read t.prog i)
    (hlen : min s.nameLen 16 = min t.nameLen 16)
    (hname : ∀ i, i < min s.nameLen 16 → Memory.read s.name i = Memory.read t.name i) : SameRecord s t := by
  refine ⟨ha.symm, hl.symm, List.map_congr_left fun i hi => ?_, image_congr hl.symm fun i hi => (hprog i hi).symm⟩
  have h16 : i < 16 := List.mem_range.1 hi
  have hiff : i < t.nameLen ↔ i < s.nameLen := by omega
  simp only [nameFieldByte, hiff]
  split
  · rw [hname i (by omega)]
  · rfl

/-- The model step that ends a run leaves the whole tape in OUT. -/
theorem tape_of_engineStep_done {s t : State} (h : StreamInv s) (hb : s.busy = true)
    (ht : engineStep s = .next t) (hd : t.done = true) : t.out = tape s := by
  have ho := h.onTape hb
  rw [engineStep_running hb ho.position.stepNo_ne] at ht
  rcases ho.exec_cases ht with ⟨hnext, -⟩ | ⟨-, -, -, hout⟩ | ⟨-, hdone, -⟩
  · exact absurd hd (by simp [hnext.unfinished])
  · exact hout
  · exact absurd hd (by simp [hdone])

/-- So does the step that ends it, whatever instant of the host comes with it. -/
theorem tape_of_step_done {s t : State} (h : StreamInv s) (hb : s.busy = true)
    (ht : step s = .next t) (hd : t.done = true) : t.out = tape s := by
  cases hin : s.inbox with
  | nil => exact tape_of_engineStep_done h hb ((step_of_quiet hin).symm.trans ht) hd
  | cons m rest =>
    rcases runMoment_cases ((step_of_waiting hin).symm.trans ht) with ⟨-, rfl⟩ | ⟨-, u, hu, hend⟩
    · cases hd
    · have hsink := sameRun_sinkEvent m.sink { s with inbox := rest }
      have hs := ((h.with_inbox rest).sinkEvent m.sink).runOptAct hu
      have hsame : SameRun s u := by
        refine (sameRun_env s s.sinkRoom rest).trans (hsink.trans (sameRun_runOptAct ?_ hu))
        cases m.sink <;> exact hb
      obtain ⟨hrec, _, _, _, _, rfl⟩ := hsame
      rcases hend with rfl | ⟨-, he⟩
      · exact absurd hd (by simp [(h.oneFlag.1 hb).1])
      · exact (tape_of_engineStep_done hs hb he hd).trans hrec.tape

/-- Settles O54: each run ends with its tape, and the two tapes are the same. -/
theorem runDependsOnItsInputsAlone : Obligations.RunDependsOnItsInputsAlone := by
  intro s1 s2 ha hl hprog hlen hname
  have htape : tape s2 = tape s1 := (sameRecord_of_agree ha hl hprog hlen hname).tape
  refine ⟨fun h1 h2 hr1 hr2 => ?_, fun h1 h2 hb1 hb2 t1 t2 ht1 ht2 hd1 hd2 => ?_⟩
  · obtain ⟨t1, u1, hs1, hrun1, hend1, hout1, -⟩ := completeRunWritesTheTape s1 h1 (by simp [hr1])
    obtain ⟨t2, u2, hs2, hrun2, hend2, hout2, -⟩ := completeRunWritesTheTape s2 h2 (by simp [hr2])
    exact ⟨t1, t2, u1, u2, hs1, hs2, hrun1, hrun2, hend1, hend2, by rw [hout1, hout2, htape]⟩
  · rw [tape_of_step_done h1 hb1 ht1 hd1, tape_of_step_done h2 hb2 ht2 hd2, htape]

end Sys2Proof.Machine
end

section
/-! PROOFS. The fifteen steps: what each sends, what it leaves in CKSUM and where it leads. -/

namespace Sys2Proof.Machine

/-! ### Operands -/

/-- A sink that takes a silence takes its samples. -/
theorem SinkTakes.leadSilence {s : State} (h : SinkTakes 192 s) :
    SinkTakes (Prim.silence 10).samples.length s := by
  rwa [samples_silence_10, List.length_replicate]

theorem SinkTakes.gapSilence {s : State} (h : SinkTakes 19200 s) :
    SinkTakes (Prim.silence 1000).samples.length s := by
  rwa [samples_silence_1000, List.length_replicate]

theorem highByte_eq (v : Half) : highByte v = BitVec.ofNat 8 (v.toNat / 256) := by
  apply BitVec.eq_of_toNat_eq
  simp [highByte, Nat.shiftRight_eq_div_pow]

theorem lowByte_eq (v : Half) : lowByte v = BitVec.ofNat 8 (v.toNat % 256) := by
  apply BitVec.eq_of_toNat_eq
  simp [lowByte]

/-! ### Silences and leaders -/

/-- Settles O16: each step issues its silence and goes to the next one. -/
theorem silenceStepsMoveOn : Obligations.SilenceStepsMoveOn := by
  refine ⟨rfl, rfl, fun s => ⟨fun h => ?_, fun h => ?_⟩⟩
  · rw [← samples_silence_10]
    exact exec_of_takes (i := .s1SilIn) rfl h.leadSilence
  · rw [← samples_silence_1000]
    exact exec_of_takes (i := .s9SilGap) rfl h.gapSilence

/-- Settles O17: the step issues its silence and ends the run. -/
theorem lastStepEndsRun : Obligations.LastStepEndsRun := by
  intro s h
  rw [← samples_silence_10]
  exact exec_of_takes (i := .s15SilOut) rfl h.leadSilence

/-- Settles O18: each step issues the bit, and its register writes ask for the last index. -/
theorem leaderStepsSendOneBit : Obligations.LeaderStepsSendOneBit := fun _ h =>
  ⟨exec_of_takes (i := .s2LdrH) rfl h, exec_of_takes (i := .s10LdrD) rfl h⟩

/-! ### Key-codes -/

/-- Settles O19: the key-code is the mode's, and clearing CKSUM undoes the byte's own write. -/
theorem headerKeyStepClearsChecksum : Obligations.HeaderKeyStepClearsChecksum :=
  ⟨rfl, fun _ h => exec_of_takes (i := .s3KeyH) rfl (h.byte _)⟩

/-- Settles O20: the key-code is the mode's, CKSUM is cleared, and PROG_LEN picks the step that follows. -/
theorem dataKeyStepClearsChecksum : Obligations.DataKeyStepClearsChecksum :=
  ⟨rfl, fun _ h => exec_of_takes (i := .s11KeyD) rfl (h.byte _)⟩

/-! ### The bytes of the records -/

/-- Settles O21: the operand is the name field's byte, and the register writes ask for the last index. -/
theorem nameStepSendsNameOrPad : Obligations.NameStepSendsNameOrPad := by
  intro s b h hname hpad
  have hread : NameReadable s := fun hlt => by simp [hname hlt]
  have hb : nameFieldByte s s.idx.toNat = b := by
    unfold nameFieldByte
    split
    · rename_i hlt
      simp [(hname hlt).2]
    · rename_i hge
      exact (hpad (Nat.not_lt.1 hge)).symm
  have hp : issuedPrim .s4Name s = some (.byte b) := by
    rw [← hb]
    exact if_pos hread
  exact exec_of_takes hp (h.byte b)

/-- Settles O26: the operand is the byte of PROG, and the register writes ask for the last index. -/
theorem dataStepSendsProgramByte : Obligations.DataStepSendsProgramByte := by
  intro s b h hlt hread
  have hp : issuedPrim .s12Data s = some (.byte b) := by simp [issuedPrim, DataReadable, hlt, hread]
  have hlast := eq_progLast_iff s.idx (Nat.zero_lt_of_lt hlt)
  simp only [← hlast]
  exact exec_of_takes hp (h.byte b)

/-- The start address is left out for Basic (R146). -/
theorem afterLength_eq (m : TapeMode) : afterLength m = if m = .machineCode then 6 else 7 := by
  cases m <;> rfl

/-- Settles O22: the index picks the byte of PROG_LEN and what follows it. -/
theorem lengthStepSendsHighByteFirst : Obligations.LengthStepSendsHighByteFirst := by
  refine ⟨rfl, fun s h => ?_⟩
  rw [← highByte_eq, ← lowByte_eq, ← afterLength_eq]
  refine ⟨fun hi => ?_, fun hi => ?_⟩
  · have hp : issuedPrim .s5Len s = some (.byte (highByte s.progLen)) := by simp [issuedPrim, hi]
    exact (exec_of_takes hp (h.byte _)).trans (congrArg _ (if_neg (by simp [hi])))
  · have hp : issuedPrim .s5Len s = some (.byte (lowByte s.progLen)) := by simp [issuedPrim, hi]
    exact (exec_of_takes hp (h.byte _)).trans (congrArg _ (if_pos hi))

/-- Settles O23: the index picks the byte of START_ADDR and whether the step ends. -/
theorem addressStepSendsHighByteFirst : Obligations.AddressStepSendsHighByteFirst := by
  intro s h
  rw [← highByte_eq, ← lowByte_eq]
  refine ⟨fun hi => ?_, fun hi => ?_⟩
  · have hp : issuedPrim .s6Addr s = some (.byte (highByte s.startAddr)) := by simp [issuedPrim, hi]
    exact (exec_of_takes hp (h.byte _)).trans (congrArg _ (if_neg (by simp [hi])))
  · have hp : issuedPrim .s6Addr s = some (.byte (lowByte s.startAddr)) := by simp [issuedPrim, hi]
    exact (exec_of_takes hp (h.byte _)).trans (congrArg _ (if_pos hi))

/-! ### Checksum bytes and dummies -/

/-- The negation of CKSUM takes it to 0 (R114). -/
theorem addCksum_neg8 (t : State) : t.addCksum (neg8 t.cksum) = t.clearCksum := by
  rw [State.addCksum, add_neg8]
  rfl

/-- A dummy byte leaves CKSUM. -/
theorem addCksum_zero (t : State) : t.addCksum 0 = t := by
  have hsum : t.cksum + 0 = t.cksum := BitVec.add_zero _
  rw [State.addCksum, hsum]

/-- Settles O24: each step issues the negation, which takes CKSUM to 0. -/
theorem checksumStepsSendNegationAndLeaveZero : Obligations.ChecksumStepsSendNegationAndLeaveZero := by
  intro s h
  have hck := addCksum_neg8 (s.afterSamples (frame (neg8 s.cksum)))
  exact ⟨(exec_of_takes (i := .s7CksH) rfl (h.byte _)).trans (congrArg (Host.Outcome.next ∘ State.goto 8) hck),
    (exec_of_takes (i := .s13CksD) rfl (h.byte _)).trans (congrArg (Host.Outcome.next ∘ State.goto 14) hck)⟩

/-- Settles O25: each step issues a byte 0, which leaves CKSUM. -/
theorem dummyStepsSendZeroBytes : Obligations.DummyStepsSendZeroBytes := by
  refine ⟨rfl, rfl, fun s h => ?_⟩
  have hck := addCksum_zero (s.afterSamples (frame 0))
  exact ⟨(exec_of_takes (i := .s8DumH) rfl (h.byte 0)).trans (congrArg (Host.Outcome.next ∘ s8After) hck),
    (exec_of_takes (i := .s14DumD) rfl (h.byte 0)).trans (congrArg (Host.Outcome.next ∘ s14After) hck)⟩

end Sys2Proof.Machine
end

section
/-! PROOFS. The container around OUT (45_container_writer.md): its header is read field by field, and the samples after
it do not reach into a field. -/

namespace Sys2Proof.Machine

/-! ### The header of the container -/

@[simp] theorem containerHeader_length (n : Nat) : (containerHeader n).length = 44 := rfl

/-- The field of the outer tag (R191, log entry 19). -/
theorem containerHeader_sizeAt4 (n : Nat) : ((containerHeader n).drop 4).take 4 = le32 (outerSize n) := rfl

/-- The field of the data chunk's tag (R191, log entry 19). -/
theorem containerHeader_sizeAt40 (n : Nat) : ((containerHeader n).drop 40).take 4 = le32 (dataSize n) := rfl

/-! ### The container -/

theorem container_length (s : State) : (container s).length = 44 + s.out.length := by
  rw [container, List.length_append, containerHeader_length]

theorem container_drop_header (s : State) : (container s).drop 44 = s.out :=
  List.drop_left' (containerHeader_length _)

/-- What ends within the first 44 bytes is read from the header, whatever the samples are. -/
theorem container_field (s : State) {a k : Nat} (h : a + k ≤ 44) :
    ((container s).drop a).take k = ((containerHeader s.out.length).drop a).take k := by
  have ha : a ≤ (containerHeader s.out.length).length := by rw [containerHeader_length]; omega
  have hk : k ≤ ((containerHeader s.out.length).drop a).length := by
    rw [List.length_drop, containerHeader_length]; omega
  rw [container, List.drop_append_of_le_length ha, List.take_append_of_le_length hk]

/-- The writer's count of the file's bytes is the file's length (R193). -/
theorem outerSize_eq_container_length (s : State) : outerSize s.out.length = (container s).length - 8 := by
  rw [container_length, outerSize, Nat.add_comm]

theorem dataSize_eq_container_length (s : State) : dataSize s.out.length = (container s).length - 44 := by
  rw [container_length, dataSize, Nat.add_comm]

/-- Settles O58: both fields lie in the header, and each counts what the whole file measures. -/
theorem containerSizesMatchTheFile : Obligations.ContainerSizesMatchTheFile := by
  intro s
  refine ⟨container_length s, container_drop_header s, ?outer, ?data⟩
  case outer =>
    rw [container_field s (by decide), containerHeader_sizeAt4, outerSize_eq_container_length]
  case data =>
    rw [container_field s (by decide), containerHeader_sizeAt40, dataSize_eq_container_length]

end Sys2Proof.Machine
end

section
/-! PROOFS. The two faults: where each is raised and that only a reset clears one; what comes in one instant; the
host's checks; and that a running core of the invariant is never stuck. -/

namespace Sys2Proof.Machine

/-! ### The sink's failure -/

/-- Settles O29: an instruction whose primitive the sink cuts short ends there. -/
theorem sinkFailureStopsAtItsSample : Obligations.SinkFailureStopsAtItsSample := fun _ _ p k hp hb hr hk =>
  ⟨p.frozen k, exec_of_short hp hb hr hk⟩

/-- Settles O30: the sink cuts step 15 short at its last sample, so its register writes do not happen. -/
theorem sinkFailureBeatsCompletion : Obligations.SinkFailureBeatsCompletion := by
  intro s t hb hd hr ht
  have hlt : 191 < (Prim.silence 10).samples.length := by rw [samples_silence_10, List.length_replicate]; decide
  cases (exec_of_short (i := .s15SilOut) rfl hb hr hlt).symm.trans ht
  refine ⟨rfl, rfl, hd, rfl, rfl, ?_⟩
  rw [State.unwritable_out, samples_silence_10, List.take_replicate]
  rfl

/-! ### The start of a Basic run -/

/-- Settles O13: START sees the new MODE, for which it asks no contract. -/
theorem startBasicRaisesUnsupportedMode : Obligations.StartBasicRaisesUnsupportedMode := by
  intro s hb hf
  show startRun (writeMode .basic s) = _
  rw [writeMode_idle _ hb, startRun, if_neg (by simp)]
  simp [startCommand, State.acceptsStart, hb, hf, State.raise, Config.fcodeUnsupportedMode]

/-! ### A faulted core -/

/-- What a fault leaves for the host to inspect (R207). -/
def State.faultRecord (s : State) : Bool × BitVec 2 × Bool × BitVec 4 × Half × Byte × List Sample :=
  (s.fault, s.fcode, s.busy, s.stepNo, s.idx, s.cksum, s.out)

theorem faultRecord_eq_iff {s t : State} : t.faultRecord = s.faultRecord ↔
    t.fault = s.fault ∧ t.fcode = s.fcode ∧ t.busy = s.busy ∧ t.stepNo = s.stepNo ∧ t.idx = s.idx ∧
    t.cksum = s.cksum ∧ t.out = s.out := by
  simp only [State.faultRecord, Prod.mk.injEq]

theorem faultRecord_sinkEvent (e : SinkEvent) (s : State) : (sinkEvent e s).faultRecord = s.faultRecord := by
  cases e <;> rfl

/-- A write of CTRL to a faulted core writes MODE at most (R141, R208). -/
theorem faultRecord_writeCtrl {v : BitVec 32} {s t : State} (hf : s.fault = true) (hb : s.busy = false)
    (ht : writeCtrl v s = .next t) : t.faultRecord = s.faultRecord := by
  obtain ⟨m, h⟩ := writeCtrl_cases ht
  rw [writeMode_idle m hb] at h
  rcases h with h | rfl
  · cases (startRun_faulted (s := { s with mode := m }) hf).symm.trans h
    rfl
  · rfl

/-- No act of the host touches what a fault left: parameters and memories are no part of it, and the modulator is not
free. -/
theorem faultRecord_runAct {a : HostAct} {s t : State} (hf : s.fault = true) (hb : s.busy = false)
    (ht : runAct a s = .next t) : t.faultRecord = s.faultRecord := by
  cases a with
  | writeCtrl v => exact faultRecord_writeCtrl hf hb ht
  | writeStartAddr v => cases ht; rw [writeStartAddr_idle v hb]; rfl
  | writeProgLen v => cases ht; rw [writeProgLen_idle v hb]; rfl
  | writeNameLen n => cases ht; rw [writeNameLen_idle n hb]; rfl
  | writeReadOnly p v => cases ht; rfl
  | placeProg i b => obtain ⟨rfl, -⟩ := placeProg_cases ht; rfl
  | placeName i b => obtain ⟨rfl, -⟩ := placeName_cases ht; rfl
  | truncateProg n => obtain ⟨rfl, -⟩ := truncateProg_cases ht; rfl
  | modcmd w | cell w | frame w | key w => cases (driveModulator_refused (.inr (.inr hf))).symm.trans ht

/-- An instant without reset leaves it, for the core makes no model step of its own there. -/
theorem faultRecord_runMoment {m : Moment} {s t : State} (hf : s.fault = true) (hb : s.busy = false)
    (hm : m.reset = false) (ht : runMoment m s = .next t) : t.faultRecord = s.faultRecord := by
  rcases runMoment_cases ht with ⟨hr, -⟩ | ⟨-, u, hu, rfl | ⟨hb', -⟩⟩
  · exact absurd hr (by simp [hm])
  · have hsink := faultRecord_sinkEvent m.sink s
    cases ha : m.act with
    | none => rw [ha] at hu; cases hu; exact hsink
    | some a =>
      rw [ha] at hu
      obtain ⟨hfault, -, hbusy, -⟩ := faultRecord_eq_iff.1 hsink
      exact (faultRecord_runAct (hfault.trans hf) (hbusy.trans hb) hu).trans hsink
  · exact absurd hb' (by simp [hb])

/-- Settles O31: a faulted core's own step is IDLE, and an instant without reset leaves what the fault left. -/
theorem faultIsClearedOnlyByReset : Obligations.FaultIsClearedOnlyByReset := by
  intro s t hf hb ht hnr
  have hkeep : t.faultRecord = s.faultRecord := by
    cases hin : s.inbox with
    | nil =>
      rw [step_of_quiet hin, engineStep_idle hb (.inl hf)] at ht
      cases ht
      rfl
    | cons m rest =>
      exact faultRecord_runMoment (s := { s with inbox := rest }) hf hb (hnr m rest hin)
        ((step_of_waiting hin).symm.trans ht)
  simpa only [faultRecord_eq_iff, hf, hb] using hkeep

/-! ### What comes in one instant -/

/-- Settles O32: the reset wire is looked at first. -/
theorem resetBeatsEverything : Obligations.ResetBeatsEverything := fun _ _ _ hin hm =>
  (step_of_waiting hin).trans (if_pos hm)

/-- A running core's model step follows the act that comes in its instant. -/
theorem runMoment_of_advance {m : Moment} {s u : State} (hr : m.reset = false) (hadv : m.advance = true)
    (hb : s.busy = true) (hu : runOptAct m.act (sinkEvent m.sink s) = .next u) : runMoment m s = engineStep u := by
  simp [runMoment, hr, hadv, hb, hu, advanceAfter]

/-- Settles O42: the write is judged by BUSY as it stands before the model step, which follows it. -/
theorem startInTheInstantOfAStepIsIgnored : Obligations.StartInTheInstantOfAStepIsIgnored := by
  intro s v rest hb hk hin
  calc step s = engineStep { s with inbox := rest } :=
        (step_of_waiting hin).trans (runMoment_of_advance rfl rfl hb (writeCtrl_busy v hb))
    _ = exec (decodeStep s.stepNo) { s with inbox := rest } := engineStep_running hb hk

/-! ### The host's checks -/

/-- A request that fails a check is not launched. -/
theorem launch_of_error {r : Request} {e : HostError} (h : validate r = .error e) : launch r = .error e := by
  rw [launch, h]
  rfl

/-- For `MODE = 0` the checks are those of the two bounds. -/
theorem validate_machineCode {r : Request} (hm : r.mode = .machineCode) : validate r =
    if r.startAddr ≤ Config.maxStartAddr then
      if r.prog.length ≤ Config.maxProgLen then .ok () else .error .inputTooLarge
    else .error .addressOutOfRange :=
  if_neg (by simp [hm])

/-- Settles O56: each check in its order. -/
theorem launchRefusesWhatTheCoreCannotCheck : Obligations.LaunchRefusesWhatTheCoreCannotCheck := by
  intro r
  refine ⟨fun hm => ?mode, fun hm ha => ?address, fun hm ha hp => ?program⟩ <;> apply launch_of_error
  case mode => exact if_pos hm
  case address => exact (validate_machineCode hm).trans (if_neg (Nat.not_le.2 ha))
  case program => exact (validate_machineCode hm).trans ((if_pos ha).trans (if_neg (Nat.not_le.2 hp)))

/-! ### A running core is never stuck -/

/-- An instruction with its primitive at hand answers a next state, whatever the sink does. -/
theorem exists_next_of_issuedPrim {i : Instr} {s : State} {p : Prim} (hp : issuedPrim i s = some p) :
    ∃ t, exec i s = .next t := by
  rcases sinkStopsAt_cases p.samples.length s with ⟨-, htakes⟩ | ⟨k, -, hb, hr, hk⟩
  · exact ⟨_, exec_of_takes hp htakes⟩
  · exact ⟨_, exec_of_short hp hb hr hk⟩

/-- At a legal position of a run whose inputs are backed the step has its primitive. -/
theorem PositionLegal.exists_prim {s : State} (hl : PositionLegal s) (hback : Backed s) :
    ∃ p, issuedPrim (decodeStep s.stepNo) s = some p := by
  obtain ⟨h0, hidx, h12⟩ := hl
  obtain ⟨hprog, hname⟩ := hback
  unfold lastIdx at hidx
  rcases stepNo_cases s.stepNo with hk | hk | hk | hk | hk | hk | hk | hk | hk | hk | hk | hk | hk | hk | hk | hk <;>
    rw [hk] at hidx ⊢
  · exact absurd hk h0
  iterate 3 exact ⟨_, rfl⟩
  · -- step 4
    have h16 : s.idx.toNat < 16 := Nat.lt_succ_of_le hidx
    exact ⟨_, if_pos fun hlt => ⟨h16, hname _ (lt_min hlt h16)⟩⟩
  iterate 7 exact ⟨_, rfl⟩
  · -- step 12
    have hlt : s.idx.toNat < s.progLen.toNat := Nat.lt_of_le_pred (h12 hk) hidx
    exact ⟨_, if_pos ⟨hlt, hprog _ hlt⟩⟩
  iterate 3 exact ⟨_, rfl⟩

/-- Settles O60: the position is legal and its inputs are backed. -/
theorem runningCoreAlwaysSteps : Obligations.RunningCoreAlwaysSteps := by
  intro s h hb hin
  have hl := h.running hb
  obtain ⟨p, hp⟩ := hl.exists_prim (h.backed hb)
  rw [step_of_quiet hin, engineStep_running hb hl.stepNo_ne]
  exact exists_next_of_issuedPrim hp

end Sys2Proof.Machine
end

section
/-! PROOFS. Runs whose sink fails: along the tape up to the failing sample, and in the fault from there on. -/

namespace Sys2Proof.Machine

/-! ### A run whose sink fails -/

/-- A run launched from `s`, `n` of its primitives issued, with nothing waiting and a sink that fails before sample
`r` of the tape. -/
structure ShortRun (s : State) (r n : Nat) (v : State) : Prop where
  onTape : OnTape v
  record : SameRecord s v
  quiet : v.inbox = []
  count : (issuedSoFar v).length = n
  room : ∃ k, v.sinkRoom = some k ∧ v.out.length + k = r

/-- A run that the sink has stopped before sample `r` of its tape (R204, R207). -/
structure CutShort (s : State) (r : Nat) (u : State) : Prop where
  fault : u.fault = true
  fcode : u.fcode = 2
  busy : u.busy = false
  done : u.done = false
  quiet : u.inbox = []
  out : u.out = (tape s).take r

/-- A run's place on its tape does not depend on the sink. -/
theorem OnTape.with_sinkRoom {s : State} (h : OnTape s) (r : Option Nat) : OnTape { s with sinkRoom := r } :=
  ⟨h.running, h.unfinished, h.sound, h.machineCode, h.position, h.backed, h.recordSum, h.stream⟩

/-- What is in OUT and the samples of the next primitive begin the tape. -/
theorem OnTape.out_append_prefix {s : State} {p : Prim} (h : OnTape s)
    (hp : issuedPrim (decodeStep s.stepNo) s = some p) : s.out ++ p.samples <+: tape s := by
  have hpre := issuedSoFar_append_prefix (h.issuedPrim_eq ▸ hp)
  rw [← flatMap_samples_runPrims, h.stream, emittedSoFar, ← List.flatMap_singleton Prim.samples p,
    ← List.flatMap_append]
  exact hpre.flatMap Prim.samples

/-- The start of the run: with a sink that never fails it is the start of a run with room for its tape. -/
theorem shortRun_started {s : State} {r : Nat} (h : Launchable s) (hr : s.sinkRoom = some r) :
    ShortRun s r 0 s.started where
  onTape := by
    have hsound : Launchable { s with sinkRoom := none } := ⟨h.idle, h.sound, h.contract, h.quiet⟩
    exact (alongRun_started hsound nofun).onTape.with_sinkRoom s.sinkRoom
  record := ⟨rfl, rfl, rfl, rfl⟩
  quiet := h.quiet
  count := rfl
  room := ⟨r, hr, Nat.zero_add r⟩

section StepOfShortRun

variable {s v : State} {r n : Nat} (h : ShortRun s r n v)
include h

/-- With a sink that never fails it would be a run with room for its tape. -/
theorem ShortRun.alongRun : AlongRun s n { v with sinkRoom := none } where
  onTape := h.onTape.with_sinkRoom none
  record := h.record.trans ⟨rfl, rfl, rfl, rfl⟩
  quiet := h.quiet
  count := h.count
  room := nofun

/-- A primitive that the sink cuts short leaves the samples before the failing one in OUT. -/
theorem ShortRun.cutShort {p : Prim} {k : Nat} (hp : issuedPrim (decodeStep v.stepNo) v = some p)
    (hk : v.out.length + k = r) (hlt : k < p.samples.length) (regs : Ticks) :
    CutShort s r (v.unwritable p.samples k regs) where
  fault := rfl
  fcode := rfl
  busy := rfl
  done := h.onTape.unfinished
  quiet := h.quiet
  out := by
    obtain ⟨rest, hrest⟩ := h.onTape.out_append_prefix hp
    rw [← h.record.tape, ← hrest, ← hk, List.append_assoc, List.take_length_add_append,
      List.take_append_of_le_length hlt.le]
    rfl

/-- A primitive that the sink still takes is not the last one, for the tape is longer. -/
theorem ShortRun.settle {p : Prim} {k : Nat} (hp : issuedPrim (decodeStep v.stepNo) v = some p)
    (hroom : v.sinkRoom = some k) (hk : v.out.length + k = r) (hle : p.samples.length ≤ k)
    (hr : r < (tape s).length) :
    ShortRun s r (n + 1) (settle (decodeStep v.stepNo) p (v.afterSamples p.samples)) := by
  obtain ⟨hout, -, -, -, -, -, -, hsink, hin, -⟩ :=
    settle_keeps (decodeStep v.stepNo) p (v.afterSamples p.samples)
  generalize hw : Machine.settle (decodeStep v.stepNo) p (v.afterSamples p.samples) = w at *
  have hlen : w.out.length = v.out.length + p.samples.length := by
    rw [hout, State.afterSamples_out, List.length_append]
  have h15 : v.stepNo ≠ 15 := fun h15 => by
    obtain ⟨-, -, -, htape⟩ := h.onTape.finished hp hw.symm h15
    rw [htape, h.record.tape] at hlen
    omega
  exact
    { onTape := h.onTape.next hp hw.symm h15
      record := h.record.trans (settle_sameRecord hw.symm)
      quiet := hin.trans h.quiet
      count := by rw [h.onTape.issuedSoFar_next hp hw.symm h15, List.length_append, h.count]; rfl
      room := ⟨k - p.samples.length, by rw [hsink, State.afterSamples_sinkRoom, hroom]; rfl, by omega⟩ }

/-- The next step of the run: on along the tape, or into the fault. -/
theorem ShortRun.step_cases (hr : r < (tape s).length) :
    ∃ w, step v = .next w ∧ (ShortRun s r (n + 1) w ∨ CutShort s r w) := by
  obtain ⟨p, hp⟩ := h.onTape.exists_prim
  obtain ⟨k, hroom, hk⟩ := h.room
  rw [step_of_quiet h.quiet, engineStep_running h.onTape.running h.onTape.position.stepNo_ne]
  by_cases hlt : k < p.samples.length
  · exact ⟨_, exec_of_short hp h.onTape.running hroom hlt, .inr (h.cutShort hp hk hlt _)⟩
  · have hle : p.samples.length ≤ k := Nat.not_lt.1 hlt
    have htakes : SinkTakes p.samples.length v := fun _ k' hk' => by
      rwa [← Option.some.inj (hroom.symm.trans hk')]
    exact ⟨_, exec_of_takes hp htakes, .inl (h.settle hp hroom hk hle hr)⟩

end StepOfShortRun

/-- A run that was stopped stays as it is (R207). -/
theorem CutShort.step_eq {s u : State} {r : Nat} (h : CutShort s r u) : step u = .next u :=
  (step_of_quiet h.quiet).trans (engineStep_idle h.busy (.inl h.fault))

/-- After any number of steps the run is still short of its failing sample, or was stopped there. -/
theorem run_shortRun_or_cutShort {s : State} {r : Nat} (h : Launchable s) (hroom : s.sinkRoom = some r)
    (hr : r < (tape s).length) (n : Nat) :
    ∃ v, core.run n s.started = .next v ∧ (ShortRun s r n v ∨ CutShort s r v) := by
  induction n with
  | zero => exact ⟨_, rfl, .inl (shortRun_started h hroom)⟩
  | succ n ih =>
    obtain ⟨v, hrun, hv | hv⟩ := ih
    · obtain ⟨w, hstep, hw⟩ := hv.step_cases hr
      exact ⟨w, run_succ_last hrun hstep, hw⟩
    · exact ⟨v, run_succ_last hrun hv.step_eq, .inr hv⟩

/-- Settles O52: after as many steps as a run has primitives the run must have been stopped. -/
theorem failedRunHoldsPrefixOfTape : Obligations.FailedRunHoldsPrefixOfTape := by
  intro s r h hroom hr
  obtain ⟨hlen, -⟩ := tapeLengthAndLevels s
  obtain ⟨u, hrun, hu | hu⟩ := run_shortRun_or_cutShort h hroom (hlen ▸ hr) (7231 + s.progLen.toNat)
  · exact absurd hu.alongRun.lt_total (Nat.lt_irrefl _)
  · exact ⟨s.started, u, exec_startMc_of_contract h.idle h.sound h.contract, hrun, hu.fault, hu.fcode, hu.busy,
      hu.done, hu.out⟩

end Sys2Proof.Machine
end

section
/-! PROOFS. The launch: the instants of R232 place the request's bytes and parameters, and the START that comes last
finds the contract kept. -/

namespace Sys2Proof.Machine

/-! ### Bytes placed one after another -/

/-- A memory after a list of bytes has been placed from index `i` on. -/
def Memory.writeFrom : Memory → Nat → List Byte → Memory
  | m, _, [] => m
  | m, i, b :: rest => (m.write i b).writeFrom (i + 1) rest

theorem Memory.read_writeFrom_lt (m : Memory) {a i : Nat} (bs : List Byte) (h : a < i) :
    (m.writeFrom i bs).read a = m.read a := by
  induction bs generalizing m i with
  | nil => rfl
  | cons b rest ih =>
    calc ((m.write i b).writeFrom (i + 1) rest).read a = (m.write i b).read a := ih _ (Nat.lt_succ_of_lt h)
      _ = m.read a := read_write_other m b (Nat.ne_of_lt h)

theorem Memory.read_writeFrom (m : Memory) (i : Nat) {bs : List Byte} {k : Nat} (h : k < bs.length) :
    (m.writeFrom i bs).read (i + k) = bs[k]? := by
  induction bs generalizing m i k with
  | nil => exact absurd h (Nat.not_lt_zero k)
  | cons b rest ih =>
    cases k with
    | zero => exact (read_writeFrom_lt (m.write i b) rest (Nat.lt_succ_self i)).trans (read_write_same m i b)
    | succ k =>
      rw [← Nat.succ_add_eq_add_succ, List.getElem?_cons_succ]
      exact ih (m.write i b) (i + 1) (Nat.lt_of_succ_lt_succ h)

/-- A byte written above every listed index is listed last. -/
theorem Memory.write_eq_append {m : Memory} {a : Nat} (v : Byte) (h : ∀ i ∈ m.map Prod.fst, i < a) :
    m.write a v = m ++ [(a, v)] := by
  induction m with
  | nil => rfl
  | cons c rest ih =>
    obtain ⟨i, b⟩ := c
    obtain ⟨hi, hrest⟩ := List.forall_mem_cons.1 h
    rw [write, if_neg (Nat.lt_asymm hi), if_neg (Nat.ne_of_gt hi), ih hrest, List.cons_append]

/-- Bytes placed where an image ends make it that much longer. -/
theorem Memory.keys_writeFrom {m : Memory} {i : Nat} (bs : List Byte) (h : m.map Prod.fst = List.range i) :
    (m.writeFrom i bs).map Prod.fst = List.range (i + bs.length) := by
  induction bs generalizing m i with
  | nil => exact h
  | cons b rest ih =>
    have hwrite : (m.write i b).map Prod.fst = List.range (i + 1) := by
      rw [write_eq_append b (by simp [h]), List.map_append, h, List.range_succ]
      rfl
    rw [List.length_cons, ← Nat.succ_add_eq_add_succ]
    exact ih hwrite

/-- Taking the older image away from its first byte on leaves nothing. -/
theorem Memory.truncate_zero (m : Memory) : m.truncate 0 = [] :=
  List.filter_eq_nil_iff.2 fun c _ => by simp

/-! ### The instants of a launch -/

/-- The instants at the end of `launch`: the parameter writes of R232 (4) and the START of (6). -/
def portWrites (r : Request) : List Moment :=
  [Moment.ofAct (.writeCtrl 0), Moment.ofAct (.writeStartAddr (BitVec.ofNat 16 r.startAddr)),
   Moment.ofAct (.writeProgLen (BitVec.ofNat 16 r.prog.length)),
   Moment.ofAct (.writeNameLen r.name.length), Moment.ofAct (.writeCtrl 1)]

/-- The checks of R232 (2) bound the load address and the image. -/
theorem bounds_of_validate {r : Request} {u : Unit} (h : validate r = .ok u) :
    r.startAddr ≤ Config.maxStartAddr ∧ r.prog.length ≤ Config.maxProgLen := by
  unfold validate at h
  split_ifs at h with hm ha hp
  exact ⟨ha, hp⟩

/-- A launch is of a request within the bounds, and its instants are those of R232 in its order. -/
theorem launch_ok {r : Request} {ms : List Moment} (h : launch r = .ok ms) :
    r.startAddr ≤ Config.maxStartAddr ∧ r.prog.length ≤ Config.maxProgLen ∧
    ms = Moment.ofAct (.truncateProg 0) :: (placeProgFrom 0 r.prog ++ (placeNameFrom 0 r.name ++ portWrites r)) := by
  cases hv : validate r with
  | error e => cases (launch_of_error hv).symm.trans h
  | ok u =>
    obtain ⟨ha, hp⟩ := bounds_of_validate hv
    rw [launch, hv] at h
    cases h
    exact ⟨ha, hp, by simp [portWrites]⟩

/-- The chain of steps that takes every instant now waiting. -/
def drain (s : State) : Outcome := core.run s.inbox.length s

/-- The first of the waiting instants is one act of the host. -/
theorem drain_ofAct {s t : State} {a : HostAct} {rest : List Moment} (hin : s.inbox = Moment.ofAct a :: rest)
    (ht : runAct a { s with inbox := rest } = .next t) (hrest : t.inbox = rest) : drain s = drain t := by
  rw [drain, drain, hin, hrest]
  exact run_succ ((step_of_waiting hin).trans ((runMoment_ofAct a _).trans ht))

theorem placeProg_idle {s : State} {i : Nat} (b : Byte) (hb : s.busy = false) (hi : i < 65536) :
    placeProg (BitVec.ofNat 16 i) b s = .next { s with prog := s.prog.write i b } := by
  rw [placeProg_of_unused b (usesProg_eq_false (.inl hb)), BitVec.toNat_ofNat, Nat.mod_eq_of_lt hi]

theorem truncateProg_zero_idle {s : State} (hb : s.busy = false) :
    truncateProg 0 s = .next { s with prog := [] } := by
  rw [truncateProg_of_unused fun _ _ => usesProg_eq_false (.inl hb), Memory.truncate_zero]

/-- An idle core's host places the bytes of an image. -/
theorem drain_placeProgFrom {s : State} {i : Nat} {bs : List Byte} {rest : List Moment} (hb : s.busy = false)
    (hi : i + bs.length ≤ 65536) (hin : s.inbox = placeProgFrom i bs ++ rest) :
    drain s = drain { s with prog := s.prog.writeFrom i bs, inbox := rest } := by
  induction bs generalizing s i with
  | nil => rw [← show s.inbox = rest from hin]; rfl
  | cons b bs ih =>
    have hlt : i < 65536 := (Nat.lt_add_of_pos_right (Nat.succ_pos _)).trans_le hi
    calc drain s
        = drain { s with prog := s.prog.write i b, inbox := placeProgFrom (i + 1) bs ++ rest } :=
          drain_ofAct hin (placeProg_idle b hb hlt) rfl
      _ = drain { s with prog := (s.prog.write i b).writeFrom (i + 1) bs, inbox := rest } :=
          ih hb ((Nat.succ_add_eq_add_succ i _).trans_le hi) rfl

/-- An idle core's host places the bytes of a name. -/
theorem drain_placeNameFrom {s : State} {i : Nat} {bs : List Byte} {rest : List Moment} (hb : s.busy = false)
    (hin : s.inbox = placeNameFrom i bs ++ rest) :
    drain s = drain { s with name := s.name.writeFrom i bs, inbox := rest } := by
  induction bs generalizing s i with
  | nil => rw [← show s.inbox = rest from hin]; rfl
  | cons b bs ih =>
    calc drain s
        = drain { s with name := s.name.write i b, inbox := placeNameFrom (i + 1) bs ++ rest } :=
          drain_ofAct hin (placeName_of_unused b (usesName_eq_false (.inl hb))) rfl
      _ = drain { s with name := (s.name.write i b).writeFrom (i + 1) bs, inbox := rest } := ih hb rfl

/-- `s` with the parameters of a request as an idle core takes them, and nothing waiting. -/
def State.withParameters (r : Request) (s : State) : State :=
  { s with mode := .machineCode, startAddr := BitVec.ofNat 16 r.startAddr,
           progLen := BitVec.ofNat 16 r.prog.length, nameLen := r.name.length, inbox := [] }

/-- The port writes of a launch set the parameters and begin the run, where the contract is kept. -/
theorem drain_portWrites {s : State} {r : Request} (hb : s.busy = false) (hf : s.fault = false)
    (hin : s.inbox = portWrites r) (hc : Contract (s.withParameters r)) :
    drain s = .next (s.withParameters r).started := by
  calc drain s
      = drain { s with mode := .machineCode, inbox := (portWrites r).drop 1 } :=
        drain_ofAct hin (congrArg Host.Outcome.next (writeMode_idle _ hb)) rfl
    _ = drain { s with mode := .machineCode, startAddr := BitVec.ofNat 16 r.startAddr,
                       inbox := (portWrites r).drop 2 } :=
        drain_ofAct rfl (congrArg Host.Outcome.next (writeStartAddr_idle _ hb)) rfl
    _ = drain { s with mode := .machineCode, startAddr := BitVec.ofNat 16 r.startAddr,
                       progLen := BitVec.ofNat 16 r.prog.length, inbox := (portWrites r).drop 3 } :=
        drain_ofAct rfl (congrArg Host.Outcome.next (writeProgLen_idle _ hb)) rfl
    _ = drain { s.withParameters r with inbox := (portWrites r).drop 4 } :=
        drain_ofAct rfl (congrArg Host.Outcome.next (writeNameLen_idle _ hb)) rfl
    _ = drain (s.withParameters r).started :=
        drain_ofAct rfl (exec_startMc_of_contract (s := s.withParameters r) hb hf hc) rfl

/-- `s` as the launch of a request leaves it to the START: PROG holds the image and nothing else. -/
def State.loaded (r : Request) (s : State) : State :=
  { s with prog := Memory.writeFrom [] 0 r.prog, name := s.name.writeFrom 0 r.name }.withParameters r

theorem read_prog_loaded (r : Request) (s : State) {i : Nat} (hi : i < r.prog.length) :
    Memory.read (s.loaded r).prog i = r.prog[i]? := by
  rw [← Memory.read_writeFrom [] 0 hi, Nat.zero_add]; rfl

theorem read_name_loaded (r : Request) (s : State) {i : Nat} (hi : i < r.name.length) :
    Memory.read (s.loaded r).name i = r.name[i]? := by
  rw [← Memory.read_writeFrom s.name 0 hi, Nat.zero_add]; rfl

theorem progLen_loaded {r : Request} (s : State) (h : r.prog.length ≤ Config.maxProgLen) :
    (s.loaded r).progLen.toNat = r.prog.length :=
  Nat.mod_eq_of_lt (Nat.lt_succ_of_le h)

theorem startAddr_loaded {r : Request} (s : State) (h : r.startAddr ≤ Config.maxStartAddr) :
    (s.loaded r).startAddr.toNat = r.startAddr :=
  Nat.mod_eq_of_lt (Nat.lt_succ_of_le h)

/-- The launch keeps the host's contract (R216). -/
theorem contract_loaded {r : Request} (s : State) (h : r.prog.length ≤ Config.maxProgLen) :
    Contract (s.loaded r) := by
  refine ⟨?image, fun i hi => ?name⟩
  case image =>
    rw [progLen_loaded s h, ← Nat.zero_add r.prog.length]
    exact Memory.keys_writeFrom r.prog rfl
  case name =>
    have hlt : i < r.name.length := (lt_min_iff.1 hi).1
    rw [read_name_loaded r s hlt, List.getElem?_eq_getElem hlt]
    rfl

/-- The instants of a launch, taken by an idle core, begin the run of its request. -/
theorem drain_launch {r : Request} {ms : List Moment} {s : State} (h : launch r = .ok ms) (hb : s.busy = false)
    (hf : s.fault = false) (hin : s.inbox = ms) : drain s = .next (s.loaded r).started := by
  obtain ⟨-, hp, rfl⟩ := launch_ok h
  have hlen : 0 + r.prog.length ≤ 65536 := by rw [Nat.zero_add]; exact hp.trans (by decide)
  calc drain s
      = drain { s with prog := [], inbox := placeProgFrom 0 r.prog ++ (placeNameFrom 0 r.name ++ portWrites r) } :=
        drain_ofAct hin (truncateProg_zero_idle hb) rfl
    _ = drain { s with prog := Memory.writeFrom [] 0 r.prog, inbox := placeNameFrom 0 r.name ++ portWrites r } :=
        drain_placeProgFrom hb hlen rfl
    _ = drain { s with prog := Memory.writeFrom [] 0 r.prog, name := s.name.writeFrom 0 r.name,
                       inbox := portWrites r } :=
        drain_placeNameFrom hb rfl
    _ = .next (s.loaded r).started := drain_portWrites hb hf rfl (contract_loaded s hp)

/-- Settles O57: the launch's instants load the request, and its START is accepted. -/
theorem launchStartsTheRequestedRun : Obligations.LaunchStartsTheRequestedRun := by
  intro r ms s h hb hf hin
  obtain ⟨ha, hp, -⟩ := launch_ok h
  have hrun : core.run ms.length s = .next (s.loaded r).started := hin ▸ drain_launch h hb hf hin
  exact ⟨_, hrun, rfl, rfl, rfl, rfl, rfl, rfl, startAddr_loaded s ha, progLen_loaded s hp, rfl,
    fun _ => read_prog_loaded r s, fun _ => read_name_loaded r s⟩

end Sys2Proof.Machine
end
